-- ==== Sys2Proof/Word.lean ====
section
/-! DEFINITION. The machine's word types (spec rule R11): every value is an unsigned integer of a fixed width. -/

namespace Sys2Proof

/-- 8 bits: V0..VF, DT, ST, memory bytes (R11). -/
abbrev Byte := BitVec 8

/-- 16 bits: I, pc, call-stack entries, an instruction word (R11). -/
abbrev Word := BitVec 16

/-- 4 bits: the fields x, y, n and a key code (R11). -/
abbrev Nibble := BitVec 4

/-- 12 bits: the address field nnn (R11). -/
abbrev Addr12 := BitVec 12

end Sys2Proof
end

