-- ==== Sys2Proof/Config.lean ====
section
/-! DEFINITION. What an implementation fixes and the spec leaves open (rule R7, decisions D2, D3, D5), and
what the host chooses (R318, R326, D23): constants with no body, so that a proof holds whatever their values are. -/

namespace Sys2Proof

/-- One less than the Display Surface's width DISP_W (R7; D2 says only DISP_W ≥ 1). Log entry 1. -/
opaque Config.dispWPred : Nat

/-- One less than the Display Surface's height DISP_H (R7; D2 says only DISP_H ≥ 1). Log entry 1. -/
opaque Config.dispHPred : Nat

/-- The font bytes FONT[0..79] (R7, R76, D3); only arguments 0 to 79 are ever used. Log entry 2. -/
opaque Config.font : Nat → Byte

/-- The byte the k-th execution of `Cxkk` receives from `random_byte()`: any byte, under no law (R193, D5). Log entry 3. -/
opaque Config.freeRnd : Nat → Byte

/-- The host's operations (R8, R324), and the external reset of the Display Surface by its owner (R45, R204). The random
byte of `Cycle(rnd)` is the free value of log entry 3. -/
inductive Machine.HostOp where
  | reset
  | load (bytes : List Byte)
  | cycle
  | tick
  | setKey (k : Nibble) (pressed : Bool)
  | surfaceReset
  deriving DecidableEq, Repr, Inhabited

/-- The k-th operation a host invokes that nothing in the state binds: any operation, under no law (R318, R326, D23). Log
entry 5. -/
opaque Config.hostChoice : Nat → Machine.HostOp

end Sys2Proof
end

