-- ==== Sys2Proof/WellFormed.lean ====
section
/-! DEFINITION. Which terms of `Instr` stand for a word. The field types already bound every operand; the one check left
is that of the SYS row, from which the words of CLS and RET are taken out (rules R104, R109, R131). -/

namespace Sys2Proof

/-- R131: the pattern of SYS is `0nnn` with nnn ≠ 0x0E0 and nnn ≠ 0x0EE. -/
def sysAddrOk (nnn : Addr12) : Bool := nnn != 0x0E0#12 && nnn != 0x0EE#12

/-- Every instruction is well formed but a SYS whose address names the word of CLS or RET. -/
def Instr.wf : Instr → Bool
  | .sys nnn => sysAddrOk nnn
  | .cls | .ret | .jp _ | .call _ | .seImm _ _ | .sneImm _ _ | .seReg _ _ | .ldImm _ _ | .addImm _ _ | .ldReg _ _
  | .orReg _ _ | .andReg _ _ | .xorReg _ _ | .addReg _ _ | .subReg _ _ | .shr _ _ | .subnReg _ _ | .shl _ _
  | .sneReg _ _ | .ldI _ | .jpV0 _ | .rnd _ _ | .drw _ _ _ | .skp _ | .sknp _ | .ldVxDt _ | .ldVxK _ | .ldDtVx _
  | .ldStVx _ | .addIVx _ | .ldFVx _ | .ldBVx _ | .ldMemVx _ | .ldVxMem _ => true

end Sys2Proof
end

