-- ==== Sys2Proof/Decode.lean ====
section
/-! DEFINITION. The Opcode Decoder and the dispatcher's selection (rules R101, R104, R108), total on any bytes, and the
encoder written from the same table. -/

namespace Sys2Proof

/-! ### Fields of a word (R10, R101) -/

/-- `kind = bits[15:12]` (R101). -/
def kind (w : Word) : Nibble := w.extractLsb' 12 4
/-- `x = bits[11:8]` (R101). -/
def fieldX (w : Word) : Nibble := w.extractLsb' 8 4
/-- `y = bits[7:4]` (R101). -/
def fieldY (w : Word) : Nibble := w.extractLsb' 4 4
/-- `n = bits[3:0]` (R101). -/
def fieldN (w : Word) : Nibble := w.extractLsb' 0 4
/-- `nn = bits[7:0]` (R101); `kk` in the assembler forms (R10). -/
def fieldNN (w : Word) : Byte := w.extractLsb' 0 8
/-- `nnn = bits[11:0]` (R101). -/
def fieldNNN (w : Word) : Addr12 := w.extractLsb' 0 12

/-! ### Selection (R104): kind first, then the second field of the group opcodes -/

/-- Kind 0: CLS and RET are tried before SYS (R104, R109). -/
def decodeKind0 (w : Word) : Option Instr :=
  if fieldNNN w = 0x0E0#12 then some .cls
  else if fieldNNN w = 0x0EE#12 then some .ret
  else some (.sys (fieldNNN w))

/-- Kind 5: `5xy0` only (R104, R108). -/
def decodeKind5 (w : Word) : Option Instr :=
  if fieldN w = 0#4 then some (.seReg (fieldX w) (fieldY w)) else none

/-- Kind 8: the low nibble selects (R104, R108). -/
def decodeKind8 (w : Word) : Option Instr :=
  match (fieldN w).toNat with
  | 0x0 => some (.ldReg (fieldX w) (fieldY w))
  | 0x1 => some (.orReg (fieldX w) (fieldY w))
  | 0x2 => some (.andReg (fieldX w) (fieldY w))
  | 0x3 => some (.xorReg (fieldX w) (fieldY w))
  | 0x4 => some (.addReg (fieldX w) (fieldY w))
  | 0x5 => some (.subReg (fieldX w) (fieldY w))
  | 0x6 => some (.shr (fieldX w) (fieldY w))
  | 0x7 => some (.subnReg (fieldX w) (fieldY w))
  | 0xE => some (.shl (fieldX w) (fieldY w))
  | _ => none

/-- Kind 9: `9xy0` only (R104, R108). -/
def decodeKind9 (w : Word) : Option Instr :=
  if fieldN w = 0#4 then some (.sneReg (fieldX w) (fieldY w)) else none

/-- Kind E: the low byte selects (R104, R108). -/
def decodeKindE (w : Word) : Option Instr :=
  match (fieldNN w).toNat with
  | 0x9E => some (.skp (fieldX w))
  | 0xA1 => some (.sknp (fieldX w))
  | _ => none

/-- Kind F: the low byte selects (R104, R108, R240). -/
def decodeKindF (w : Word) : Option Instr :=
  match (fieldNN w).toNat with
  | 0x07 => some (.ldVxDt (fieldX w))
  | 0x0A => some (.ldVxK (fieldX w))
  | 0x15 => some (.ldDtVx (fieldX w))
  | 0x18 => some (.ldStVx (fieldX w))
  | 0x1E => some (.addIVx (fieldX w))
  | 0x29 => some (.ldFVx (fieldX w))
  | 0x33 => some (.ldBVx (fieldX w))
  | 0x55 => some (.ldMemVx (fieldX w))
  | 0x65 => some (.ldVxMem (fieldX w))
  | _ => none

/-- The instruction a word selects, or `none` for an illegal word (R104, R108). -/
def decodeWord (w : Word) : Option Instr :=
  match (kind w).toNat with
  | 0x0 => decodeKind0 w
  | 0x1 => some (.jp (fieldNNN w))
  | 0x2 => some (.call (fieldNNN w))
  | 0x3 => some (.seImm (fieldX w) (fieldNN w))
  | 0x4 => some (.sneImm (fieldX w) (fieldNN w))
  | 0x5 => decodeKind5 w
  | 0x6 => some (.ldImm (fieldX w) (fieldNN w))
  | 0x7 => some (.addImm (fieldX w) (fieldNN w))
  | 0x8 => decodeKind8 w
  | 0x9 => decodeKind9 w
  | 0xA => some (.ldI (fieldNNN w))
  | 0xB => some (.jpV0 (fieldNNN w))
  | 0xC => some (.rnd (fieldX w) (fieldNN w))
  | 0xD => some (.drw (fieldX w) (fieldY w) (fieldN w))
  | 0xE => decodeKindE w
  | 0xF => decodeKindF w
  | _ => none

/-! ### Decoding bytes (R71, R100) -/

/-- Two bytes as one word, the byte at the lower address first (R71: `hi*256+lo`). -/
def wordOfBytes (hi lo : Byte) : Word := hi ++ lo

/-- Why bytes are no instruction. -/
inductive DecodeError where
  /-- fewer than the two bytes of an instruction (R100) -/
  | truncated
  /-- the word matches no row of R104 (R108) -/
  | unsupported (w : Word)
  deriving DecidableEq, Repr

/-- The instruction at the head of a byte sequence and the bytes after it, total on any bytes. -/
def decodeBytes : List Byte → Except DecodeError (Instr × List Byte)
  | hi :: lo :: rest =>
    match decodeWord (wordOfBytes hi lo) with
    | some i => .ok (i, rest)
    | none => .error (.unsupported (wordOfBytes hi lo))
  | [_] => .error .truncated
  | [] => .error .truncated

/-! ### The encoder (R101, R104) -/

/-- A word from its four nibbles, most significant first (R10). -/
def word4 (k x y n : Nibble) : Word := k ++ x ++ y ++ n
/-- A word from kind, x and the low byte (format XNN, R102). -/
def wordXNN (k x : Nibble) (nn : Byte) : Word := k ++ x ++ nn
/-- A word from kind and the address field (format NNN, R102). -/
def wordNNN (k : Nibble) (nnn : Addr12) : Word := k ++ nnn

/-- The word of an instruction (the patterns of R104). -/
def encode : Instr → Word
  | .cls => 0x00E0#16
  | .ret => 0x00EE#16
  | .sys nnn => wordNNN 0x0#4 nnn
  | .jp nnn => wordNNN 0x1#4 nnn
  | .call nnn => wordNNN 0x2#4 nnn
  | .seImm x nn => wordXNN 0x3#4 x nn
  | .sneImm x nn => wordXNN 0x4#4 x nn
  | .seReg x y => word4 0x5#4 x y 0x0#4
  | .ldImm x nn => wordXNN 0x6#4 x nn
  | .addImm x nn => wordXNN 0x7#4 x nn
  | .ldReg x y => word4 0x8#4 x y 0x0#4
  | .orReg x y => word4 0x8#4 x y 0x1#4
  | .andReg x y => word4 0x8#4 x y 0x2#4
  | .xorReg x y => word4 0x8#4 x y 0x3#4
  | .addReg x y => word4 0x8#4 x y 0x4#4
  | .subReg x y => word4 0x8#4 x y 0x5#4
  | .shr x y => word4 0x8#4 x y 0x6#4
  | .subnReg x y => word4 0x8#4 x y 0x7#4
  | .shl x y => word4 0x8#4 x y 0xE#4
  | .sneReg x y => word4 0x9#4 x y 0x0#4
  | .ldI nnn => wordNNN 0xA#4 nnn
  | .jpV0 nnn => wordNNN 0xB#4 nnn
  | .rnd x nn => wordXNN 0xC#4 x nn
  | .drw x y n => word4 0xD#4 x y n
  | .skp x => wordXNN 0xE#4 x 0x9E#8
  | .sknp x => wordXNN 0xE#4 x 0xA1#8
  | .ldVxDt x => wordXNN 0xF#4 x 0x07#8
  | .ldVxK x => wordXNN 0xF#4 x 0x0A#8
  | .ldDtVx x => wordXNN 0xF#4 x 0x15#8
  | .ldStVx x => wordXNN 0xF#4 x 0x18#8
  | .addIVx x => wordXNN 0xF#4 x 0x1E#8
  | .ldFVx x => wordXNN 0xF#4 x 0x29#8
  | .ldBVx x => wordXNN 0xF#4 x 0x33#8
  | .ldMemVx x => wordXNN 0xF#4 x 0x55#8
  | .ldVxMem x => wordXNN 0xF#4 x 0x65#8

/-- The bytes of an instruction as memory holds them, high byte at the lower address (R71, R100). -/
def encodeBytes (i : Instr) : List Byte := [(encode i).extractLsb' 8 8, (encode i).extractLsb' 0 8]

/-! ### The opcode map as the spec prints it (R104): the claims compare the decoder with it -/

/-- The mask and match columns of the 35 rows of R104, in the table's order. -/
def opcodeRows : List (Word × Word) :=
  [(0xFFFF#16, 0x00E0#16), (0xFFFF#16, 0x00EE#16), (0xF000#16, 0x0000#16), (0xF000#16, 0x1000#16),
   (0xF000#16, 0x2000#16), (0xF000#16, 0x3000#16), (0xF000#16, 0x4000#16), (0xF00F#16, 0x5000#16),
   (0xF000#16, 0x6000#16), (0xF000#16, 0x7000#16), (0xF00F#16, 0x8000#16), (0xF00F#16, 0x8001#16),
   (0xF00F#16, 0x8002#16), (0xF00F#16, 0x8003#16), (0xF00F#16, 0x8004#16), (0xF00F#16, 0x8005#16),
   (0xF00F#16, 0x8006#16), (0xF00F#16, 0x8007#16), (0xF00F#16, 0x800E#16), (0xF00F#16, 0x9000#16),
   (0xF000#16, 0xA000#16), (0xF000#16, 0xB000#16), (0xF000#16, 0xC000#16), (0xF000#16, 0xD000#16),
   (0xF0FF#16, 0xE09E#16), (0xF0FF#16, 0xE0A1#16), (0xF0FF#16, 0xF007#16), (0xF0FF#16, 0xF00A#16),
   (0xF0FF#16, 0xF015#16), (0xF0FF#16, 0xF018#16), (0xF0FF#16, 0xF01E#16), (0xF0FF#16, 0xF029#16),
   (0xF0FF#16, 0xF033#16), (0xF0FF#16, 0xF055#16), (0xF0FF#16, 0xF065#16)]

/-- The row of `opcodeRows` an instruction stands in, counted from 0 (row # of R104 less one). -/
def opcodeRowOf : Instr → Nat
  | .cls => 0
  | .ret => 1
  | .sys _ => 2
  | .jp _ => 3
  | .call _ => 4
  | .seImm _ _ => 5
  | .sneImm _ _ => 6
  | .seReg _ _ => 7
  | .ldImm _ _ => 8
  | .addImm _ _ => 9
  | .ldReg _ _ => 10
  | .orReg _ _ => 11
  | .andReg _ _ => 12
  | .xorReg _ _ => 13
  | .addReg _ _ => 14
  | .subReg _ _ => 15
  | .shr _ _ => 16
  | .subnReg _ _ => 17
  | .shl _ _ => 18
  | .sneReg _ _ => 19
  | .ldI _ => 20
  | .jpV0 _ => 21
  | .rnd _ _ => 22
  | .drw _ _ _ => 23
  | .skp _ => 24
  | .sknp _ => 25
  | .ldVxDt _ => 26
  | .ldVxK _ => 27
  | .ldDtVx _ => 28
  | .ldStVx _ => 29
  | .addIVx _ => 30
  | .ldFVx _ => 31
  | .ldBVx _ => 32
  | .ldMemVx _ => 33
  | .ldVxMem _ => 34

/-! ### The host's entry point -/

/-- The instruction the decoder reads from a word numbered as the opcode table numbers it: the bits below `nbits` of `w`,
the rest 0, laid out high byte first (R71) and given to `decodeBytes`. -/
def decodeTableWord (nbits w : Nat) : Option Instr :=
  let v : Word := BitVec.ofNat 16 (w % 2 ^ nbits)
  match decodeBytes [v.extractLsb' 8 8, v.extractLsb' 0 8] with
  | .ok (i, _) => some i
  | .error _ => none

end Sys2Proof
end

