-- ==== Sys2Proof/Machine/State.lean ====
section
/-! DEFINITION. The state of the CORE (rule R30) and of the Display Surface it calls (R45), what the host does
next (R8, R318), the reasons a step can stop, and the machine right after reset (R48). -/

namespace Sys2Proof.Machine

/-- Memory as cells (address, byte): addresses strictly rising, none equal to what an unlisted address reads as
(`Memory.wf`). -/
abbrev Memory := List Host.Cell

/-- A pixel (row, column) of the Display Surface, both counted from 0 (R45, R202). -/
abbrev Pixel := Nat × Nat

/-- The pixel buffer `fb` (R45) as the list of the pixels that are on, in strictly rising (row, column) order
(`Surface.wf`). -/
abbrev Surface := List Pixel

/-- The four causes of R270. They are RECORDED in `State.fault` by the cycle that raises them, which is a NEXT state
(R272); no step of this model answers `Outcome.fault`, since R106 and R273 give every cycle, the faulting and the faulted
ones too, an effect. -/
inductive Fault where
  /-- code 1: raised by CALL with sp = 16 (R135, R270). Safe: it is the spec's own outcome. -/
  | stackOverflow
  /-- code 2: raised by RET with sp = 0 (R133, R270). Safe: it is the spec's own outcome. -/
  | stackUnderflow
  /-- code 3: raised by a fetch at pc ≥ 4095 and by DRW, Fx33, Fx55, Fx65 whose range passes 4095 (R73, R270).
  Safe: D8 and D9 err toward unprovable. -/
  | outOfBounds
  /-- code 4: raised by the dispatcher for an illegal word (R108, R270). Safe: D11 errs toward unprovable. -/
  | unsupportedInstruction
  deriving DecidableEq, Repr

/-- Reasons of the model to give no next state. -/
inductive Refusal where
  /-- answered only by an arm of `exec` whose instruction has no meaning yet; no arm does. Safe. -/
  | notModelled (mnemonic : String)
  /-- `Load` of more than MAX_PROG = 3584 bytes: not defined, "a model gives it no step" (R312, D21, U9). Safe. -/
  | loadTooLong
  /-- `Load` after the first `Cycle` or a second time: a move the host does not have (R312, R318, U10). Safe. -/
  | loadNotAllowed
  deriving DecidableEq, Repr

/-- The failure record (R43, R271): cause, address of the offending instruction, and its word where one was fetched. -/
structure FaultRecord where
  cause : Fault
  pc : Word
  opcode : Option Word
  deriving DecidableEq, Repr

/-- What the host invokes once no operation is listed (R318, R326, log entry 5). A run that ends is one whose steps are no
longer taken. -/
inductive HostPlan where
  /-- a `Cycle` each time -/
  | cycling
  /-- the free operations `Config.hostChoice k`, `Config.hostChoice (k + 1)`, ... for ever: any infinite sequence, those
  in which `Tick`, `SetKey` or `Reset` recur and those without any further `Cycle` among them -/
  | free (k : Nat)
  deriving DecidableEq, Repr

/-- Everything the spec gives the machine (R30, R45), and four fields of the model's own (log entries 3 and 5). -/
structure State where
  /-- the 4096 bytes (R30, R70) -/
  mem : Memory
  /-- V0..VF (R31); VF is V[15] (R32) -/
  v : Vector Byte 16
  /-- the index register I (R33) -/
  i : Word
  /-- the program counter (R34) -/
  pc : Word
  /-- the call stack's slots (R37) -/
  stack : Vector Word 16
  /-- the call stack's depth, 0..16 (R37) -/
  sp : Fin 17
  /-- the delay timer (R38) -/
  dt : Byte
  /-- the sound timer (R39) -/
  st : Byte
  /-- the keypad: true = pressed (R41) -/
  keys : Vector Bool 16
  /-- the Blocked flag (R42) -/
  blocked : Bool
  /-- the failure record, `none` while no fault has occurred (R43) -/
  fault : Option FaultRecord
  /-- one past the last byte `Load` copied (R44) -/
  progEnd : BitVec 13
  /-- the Display Surface's pixel buffer (R45) -/
  fb : Surface
  /-- MODEL'S OWN: how many random bytes have been taken (log entry 3) -/
  rndCount : Nat
  /-- MODEL'S OWN: the operations the host invokes next, oldest first (log entry 5) -/
  hostOps : List HostOp
  /-- MODEL'S OWN: what the host invokes after these (log entry 5) -/
  hostPlan : HostPlan
  /-- MODEL'S OWN: whether `Load` is still legal (R312, log entry 5) -/
  loadOpen : Bool
  deriving DecidableEq, Repr

/-- What a meaning and a step answer. -/
abbrev Result := Host.Outcome State Fault Refusal

/-- The machine right after reset (R48, R310), the Display Surface cleared by its own external reset (R45). Memory lists
nothing: every byte is what reset leaves there. -/
def State.reset : State where
  mem := []
  v := Vector.replicate 16 0#8
  i := 0#16
  pc := 0x200#16
  stack := Vector.replicate 16 0#16   -- the spec gives none: log entry 4
  sp := 0
  dt := 0#8
  st := 0#8
  keys := Vector.replicate 16 false
  blocked := false
  fault := none
  progEnd := 0x200#13
  fb := []
  rndCount := 0
  hostOps := []
  hostPlan := .free 0
  loadOpen := true

end Sys2Proof.Machine
end

