-- ==== Sys2Proof/Machine/Memory.lean ====
section
/-! DEFINITION. The operations over memory (rules R70 to R84): one address space of 4096 bytes, single-byte accesses, the
big-endian fetch, and the canonical form. Bounds are checked by the caller, before anything is read or written (R73). -/

namespace Sys2Proof.Machine

/-- The size of the address space (R6, R70). -/
def memSize : Nat := 4096

/-- The byte FONT[a], 0 ≤ a < 80 (R76). -/
def fontByte (a : Nat) : Byte := Config.font a

/-- What an address nothing has written reads as: the reset contents, FONT at 0..79 and zero elsewhere (R48, R75). -/
def resetByte (a : Nat) : Byte := if a < 80 then fontByte a else 0#8

/-- The byte at address `a`. -/
def Memory.read : Memory → Nat → Byte
  | [], a => resetByte a
  | (k, b) :: rest, a => if a = k then b else Memory.read rest a

/-- Memory with byte `b` at address `a`, in canonical form: the cells stay in rising order, and a byte equal to the reset
contents is not listed. -/
def Memory.write : Memory → Nat → Byte → Memory
  | [], a, b => if b = resetByte a then [] else [(a, b)]
  | (k, c) :: rest, a, b =>
    if a < k then (if b = resetByte a then (k, c) :: rest else (a, b) :: (k, c) :: rest)
    else if a = k then (if b = resetByte a then rest else (a, b) :: rest)
    else (k, c) :: Memory.write rest a b

/-- The canonical form, for cells whose addresses are all at least `low`. -/
def Memory.wfFrom : Nat → Memory → Bool
  | _, [] => true
  | low, (k, b) :: rest =>
    decide (low ≤ k) && decide (k < memSize) && decide (b ≠ resetByte k) && Memory.wfFrom (k + 1) rest

/-- The canonical form: addresses strictly rising and below 4096, no cell equal to the reset contents. -/
def Memory.wf (m : Memory) : Bool := Memory.wfFrom 0 m

/-- The `n` bytes at `a`, `a + 1`, ... (R72: single-byte reads, ascending). -/
def Memory.readBlock (m : Memory) : Nat → Nat → List Byte
  | _, 0 => []
  | a, n + 1 => m.read a :: Memory.readBlock m (a + 1) n

/-- Bytes stored at `a`, `a + 1`, ... (R72: single-byte writes, ascending). -/
def Memory.writeBlock : Memory → Nat → List Byte → Memory
  | m, _, [] => m
  | m, a, b :: bs => Memory.writeBlock (m.write a b) (a + 1) bs

/-- `read16(a)`: two consecutive bytes, high byte first (R71). -/
def Memory.read16 (m : Memory) (a : Nat) : Word := wordOfBytes (m.read a) (m.read (a + 1))

end Sys2Proof.Machine
end

