-- ==== Sys2Proof/Machine/Surface.lean ====
section
/-! DEFINITION. The Display Surface (rules R202 to R206): its pixels, `clear()` and the reference behaviour of
`draw_sprite` (R203), for any width and height. -/

namespace Sys2Proof.Machine

/-- DISP_W ≥ 1 (R7, D2). -/
def dispW : Nat := Config.dispWPred + 1

/-- DISP_H ≥ 1 (R7, D2). -/
def dispH : Nat := Config.dispHPred + 1

/-- Whether pixel `p` stands before pixel `q`: row first, then column. -/
def pixelBefore (p q : Pixel) : Bool := decide (p.1 < q.1) || (decide (p.1 = q.1) && decide (p.2 < q.2))

/-- Whether a pixel is on. -/
def Surface.isLit (fb : Surface) (p : Pixel) : Bool := decide (p ∈ fb)

/-- XOR one pixel with 1, keeping the rising order (R203: `fb[py][px] <- fb[py][px] ^ 1`). -/
def Surface.toggle : Surface → Pixel → Surface
  | [], p => [p]
  | q :: rest, p =>
    if p = q then rest
    else if pixelBefore p q then p :: q :: rest
    else q :: Surface.toggle rest p

/-- The pixels are in strictly rising order. -/
def Surface.sorted : Surface → Bool
  | [] => true
  | [_] => true
  | p :: q :: rest => pixelBefore p q && Surface.sorted (q :: rest)

/-- The canonical form of a surface of width `w` and height `h`: rising order, every pixel inside. -/
def Surface.wf (w h : Nat) (fb : Surface) : Bool :=
  fb.sorted && fb.all (fun p => decide (p.1 < h) && decide (p.2 < w))

/-- `clear()`: every pixel off (R204). -/
def Surface.cleared : Surface := []

/-- Bit `7 - c` of a sprite row is its column `c` (R203, R205). -/
def spriteBit (row : Byte) (c : Nat) : Bool := row.getLsbD (7 - c)

/-- The pixels the set bits of one sprite row name, columns ascending, wrapped on both axes (R203). -/
def rowPixels (w h x y : Nat) (row : Byte) : List Pixel :=
  ((List.range 8).filter (spriteBit row)).map (fun c => (y % h, (x + c) % w))

/-- The pixels a sprite's set bits name, rows ascending (R203). -/
def spritePixels (w h x : Nat) : Nat → List Byte → List Pixel
  | _, [] => []
  | y, row :: rows => rowPixels w h x y row ++ spritePixels w h x (y + 1) rows

/-- Toggle pixels one after another; the flag says whether any was on before its own toggle (R203). -/
def Surface.togglePixels : List Pixel → Surface → Surface × Bool
  | [], fb => (fb, false)
  | p :: ps, fb =>
    let (fb', collided) := Surface.togglePixels ps (fb.toggle p)
    (fb', fb.isLit p || collided)

/-- `draw_sprite(x, y, rows)` on a surface of width `w` and height `h`: the new surface and `collided` (R203). -/
def Surface.drawSprite (w h : Nat) (x y : Byte) (rows : List Byte) (fb : Surface) : Surface × Bool :=
  Surface.togglePixels (spritePixels w h x.toNat y.toNat rows) fb

end Sys2Proof.Machine
end

