-- ==== Sys2Proof/Machine/Ops.lean ====
section
/-! DEFINITION. The named operations every meaning is written with: reads and writes of registers, the ways a cycle ends
(rules R12, R35, R106), raising a fault (R270 to R272), the call stack (R37), the random byte (R193). -/

namespace Sys2Proof.Machine

/-! ### General registers (R31, R32) -/

/-- `V[x]`. -/
def State.getV (s : State) (x : Nibble) : Byte := s.v[x.toNat]'(x.isLt)

/-- `V[x] <- b`. -/
def State.setV (s : State) (x : Nibble) (b : Byte) : State := { s with v := s.v.set x.toNat b x.isLt }

/-- The number of VF (R32). -/
def vf : Nibble := 0xF#4

/-- `V[k] <- b0, V[k+1] <- b1, ...` for the bytes of a list (the loop of R248). -/
def State.setRegs (s : State) : Nat → List Byte → State
  | _, [] => s
  | k, b :: bs => State.setRegs (s.setV (BitVec.ofNat 4 k) b) (k + 1) bs

/-! ### The other registers (R12: `r <- v`) -/

def State.setPc (s : State) (a : Word) : State := { s with pc := a }
def State.setI (s : State) (a : Word) : State := { s with i := a }
def State.setMem (s : State) (m : Memory) : State := { s with mem := m }
def State.setDt (s : State) (b : Byte) : State := { s with dt := b }
def State.setSt (s : State) (b : Byte) : State := { s with st := b }
def State.setFb (s : State) (fb : Surface) : State := { s with fb := fb }
def State.setBlocked (s : State) (b : Bool) : State := { s with blocked := b }
def State.setFault (s : State) (f : FaultRecord) : State := { s with fault := some f }

/-! ### How a cycle ends (R12, R35, R106 step 9) -/

/-- `npc = a + 2` (R12). -/
def State.npc (s : State) : Word := s.pc + 2#16

/-- The instruction completes and control goes to `target`. -/
def goTo (target : Word) (s : State) : Result := .next (s.setPc target)

/-- The instruction completes without changing control flow: `pc <- npc` (R106). -/
def complete (s : State) : Result := goTo s.npc s

/-- A conditional skip: `pc <- npc + 2` if the condition holds, else `npc` (R150). -/
def skipIf (c : Bool) (s : State) : Result := goTo (if c then s.npc + 2#16 else s.npc) s

/-- TAKING A FAULT (R12 `raise`, R271, R272): the record (cause, a, opcode) is written and nothing else changes. There is
no way back but `Reset` (R274), so no return stands beside it. -/
def raise (cause : Fault) (opcode : Option Word) (s : State) : Result :=
  .next (s.setFault { cause := cause, pc := s.pc, opcode := opcode })

/-- The bounds check of an access to `count` bytes from `start`, made before anything is written: `OutOfBounds` if the last
byte lies beyond 4095; no byte, no check. Sums are unbounded integers (R73, R84). -/
def checkRange (start count : Nat) (i : Instr) (s : State) (ok : Result) : Result :=
  if 1 ≤ count ∧ memSize - 1 < start + count - 1 then raise .outOfBounds (some (encode i)) s else ok

/-! ### The call stack (R37) -/

/-- The slot `stack[j]`; j ≤ 15 wherever it is used. -/
def State.slot (s : State) (j : Nat) : Word := (s.stack[j]?).getD 0#16

/-- `stack[sp] <- a; sp <- sp + 1`, for sp < 16. -/
def State.push (s : State) (a : Word) : State :=
  { s with stack := s.stack.setIfInBounds s.sp.val a, sp := Fin.ofNat 17 (s.sp.val + 1) }

/-- `sp <- sp - 1`, for sp > 0; the popped slot keeps its contents (R133). -/
def State.pop (s : State) : State := { s with sp := Fin.ofNat 17 (s.sp.val - 1) }

/-- The entry most recently pushed, for sp > 0. -/
def State.top (s : State) : Word := s.slot (s.sp.val - 1)

/-! ### Input and output levels -/

/-- The byte `random_byte()` gives next: a free value (R193, log entry 3). -/
def State.randomByte (s : State) : Byte := Config.freeRnd s.rndCount

/-- The next execution of `Cxkk` receives a fresh byte. -/
def State.takeRandom (s : State) : State := { s with rndCount := s.rndCount + 1 }

/-- `SOUND = (ST ≠ 0)` (R40). -/
def State.sound (s : State) : Bool := decide (s.st ≠ 0#8)

/-- The numeric code of a cause (R270). -/
def faultCode : Fault → Nat
  | .stackOverflow => 1
  | .stackUnderflow => 2
  | .outOfBounds => 3
  | .unsupportedInstruction => 4

/-- The code `fault.cause` holds, 0 while there is no fault (R270). -/
def State.causeCode (s : State) : Nat :=
  match s.fault with
  | none => 0
  | some f => faultCode f.cause

end Sys2Proof.Machine
end

