-- ==== Sys2Proof/Machine/Flags.lean ====
section
/-! DEFINITION. Every flag computation (rules R32, R175 to R180, R201), each on the operand values from before the
operation, and the write order of a flag and a result (R170). -/

namespace Sys2Proof.Machine

/-- A flag value: 1 or 0 (R32). -/
def flagByte (c : Bool) : Byte := if c then 1#8 else 0#8

/-- Carry of `8xy4`, on the unwrapped sum (R175). -/
def carryFlag (a b : Byte) : Byte := flagByte (decide (255 < a.toNat + b.toNat))

/-- Not-borrow of `a - b` (R176, R178). -/
def notBorrowFlag (a b : Byte) : Byte := flagByte (decide (b.toNat ≤ a.toNat))

/-- The bit SHR shifts out: bit 0 (R177). -/
def shrFlag (a : Byte) : Byte := a &&& 1#8

/-- The bit SHL shifts out: bit 7 (R179). -/
def shlFlag (a : Byte) : Byte := (a >>> 7) &&& 1#8

/-- VF first, `V[x]` second (R170 part 2): with x = 0xF the result remains. -/
def State.setFlagThen (s : State) (flag : Byte) (x : Nibble) (result : Byte) : State := (s.setV vf flag).setV x result

end Sys2Proof.Machine
end

