-- ==== Sys2Proof/Machine/Operands.lean ====
section
/-! DEFINITION. The operand forms (rules R103, R221, R226, R240): zero extension, the address in I, the register block
V0..Vx, the sprite rows, the decimal digits, the keys. -/

namespace Sys2Proof.Machine

/-- `zext_16` of an address field (R103). -/
def zextAddr (nnn : Addr12) : Word := nnn.setWidth 16

/-- `zext_16` of a byte (R11). -/
def zextByte (b : Byte) : Word := b.setWidth 16

/-- The base address I as an unbounded integer (R84). -/
def State.base (s : State) : Nat := s.i.toNat

/-- How many registers V0..Vx are (R247, R248). -/
def blockLen (x : Nibble) : Nat := x.toNat + 1

/-- The bytes of V0..Vx, V0 first (R247). -/
def State.regBlock (s : State) (x : Nibble) : List Byte :=
  (List.range (blockLen x)).map (fun k => s.getV (BitVec.ofNat 4 k))

/-- The sprite rows `mem[I + r]`, r = 0 .. n−1 (R201). -/
def State.spriteRows (s : State) (n : Nibble) : List Byte := s.mem.readBlock s.base n.toNat

/-- Hundreds, tens, ones (R246). -/
def bcdDigits (b : Byte) : List Byte :=
  [BitVec.ofNat 8 (b.toNat / 100), BitVec.ofNat 8 (b.toNat / 10 % 10), BitVec.ofNat 8 (b.toNat % 10)]

/-- The level of key `k` (R41). -/
def State.keyDown (s : State) (k : Nibble) : Bool := s.keys[k.toNat]'(k.isLt)

/-- `pressed(v) = (v ≤ 15) and (key[v] = 1)`, no masking (R221). -/
def State.pressed (s : State) (b : Byte) : Bool := decide (b.toNat ≤ 15) && s.keyDown (b.setWidth 4)

/-- The sixteen key codes, upward from 0 (R226). -/
def keyCodes : List Nibble := (List.range 16).map (BitVec.ofNat 4)

/-- The lowest pressed key code, if any key is pressed (R224, R226). -/
def State.firstKey (s : State) : Option Nibble := keyCodes.find? s.keyDown

end Sys2Proof.Machine
end

