-- ==== Sys2Proof/Machine/Alu.lean ====
section
/-! DEFINITION. Kind 8: move, logic, arithmetic and shifts (spec/43_alu.md). Operands are read before anything is written
(R170). -/

namespace Sys2Proof.Machine

/-- R171: `V[x] <- V[y]`. -/
def execLdReg (x y : Nibble) (s : State) : Result := complete (s.setV x (s.getV y))

/-- R172: `V[x] <- V[x] | V[y]`; VF is not written. -/
def execOrReg (x y : Nibble) (s : State) : Result := complete (s.setV x (s.getV x ||| s.getV y))

/-- R173: `V[x] <- V[x] & V[y]`; VF is not written. -/
def execAndReg (x y : Nibble) (s : State) : Result := complete (s.setV x (s.getV x &&& s.getV y))

/-- R174: `V[x] <- V[x] ^ V[y]`; VF is not written. -/
def execXorReg (x y : Nibble) (s : State) : Result := complete (s.setV x (s.getV x ^^^ s.getV y))

/-- R175: VF = carry of the unwrapped sum, then `V[x] <- sum mod 256`. -/
def execAddReg (x y : Nibble) (s : State) : Result :=
  complete (s.setFlagThen (carryFlag (s.getV x) (s.getV y)) x (s.getV x + s.getV y))

/-- R176: VF = 1 if `V[x] ≥ V[y]`, then `V[x] <- (V[x] - V[y]) mod 256`. -/
def execSubReg (x y : Nibble) (s : State) : Result :=
  complete (s.setFlagThen (notBorrowFlag (s.getV x) (s.getV y)) x (s.getV x - s.getV y))

/-- R177: VF = bit 0 of `V[x]`, then `V[x] <- V[x] >> 1`; y is ignored. -/
def execShr (x _y : Nibble) (s : State) : Result :=
  complete (s.setFlagThen (shrFlag (s.getV x)) x (s.getV x >>> 1))

/-- R178: VF = 1 if `V[y] ≥ V[x]`, then `V[x] <- (V[y] - V[x]) mod 256`. -/
def execSubnReg (x y : Nibble) (s : State) : Result :=
  complete (s.setFlagThen (notBorrowFlag (s.getV y) (s.getV x)) x (s.getV y - s.getV x))

/-- R179: VF = bit 7 of `V[x]`, then `V[x] <- (V[x] << 1) mod 256`; y is ignored. -/
def execShl (x _y : Nibble) (s : State) : Result :=
  complete (s.setFlagThen (shlFlag (s.getV x)) x (s.getV x <<< 1))

end Sys2Proof.Machine
end

