-- ==== Sys2Proof/Machine/Draw.lean ====
section
/-! DEFINITION. Kind D: sprite draw (spec/45_draw.md). -/

namespace Sys2Proof.Machine

/-- The call `draw_sprite(V[x], V[y], rows)` on the surface of this machine (R201, R203): the new surface and `collided`. -/
def State.drawn (s : State) (x y n : Nibble) : Surface × Bool :=
  Surface.drawSprite dispW dispH (s.getV x) (s.getV y) (s.spriteRows n) s.fb

/-- R201: check the sprite's range, draw, VF = collision. -/
def execDrw (x y n : Nibble) (s : State) : Result :=
  checkRange s.base n.toNat (.drw x y n) s
    (complete ((s.setFb (s.drawn x y n).1).setV vf (flagByte (s.drawn x y n).2)))

end Sys2Proof.Machine
end

