-- ==== Sys2Proof/Machine/Flow.lean ====
section
/-! DEFINITION. Kinds 0, 1, 2 and B: SYS, CLS, RET, JP, CALL (spec/40_flow_sys_jp_call.md) and JP V0 (R192). -/

namespace Sys2Proof.Machine

/-- R132: `clear()`. -/
def execCls (s : State) : Result := complete (s.setFb Surface.cleared)

/-- R133: pop the stack into the pc; `StackUnderflow` if it is empty. -/
def execRet (s : State) : Result :=
  if s.sp.val = 0 then raise .stackUnderflow (some (encode .ret)) s else goTo s.top s.pop

/-- R131: a defined no-op; the address is ignored. -/
def execSys (_nnn : Addr12) (s : State) : Result := complete s

/-- R134: `pc <- zext_16(nnn)`. -/
def execJp (nnn : Addr12) (s : State) : Result := goTo (zextAddr nnn) s

/-- R135: push npc, then `pc <- zext_16(nnn)`; `StackOverflow` if the stack is full. -/
def execCall (nnn : Addr12) (s : State) : Result :=
  if s.sp.val = 16 then raise .stackOverflow (some (encode (.call nnn))) s else goTo (zextAddr nnn) (s.push s.npc)

/-- R192: `pc <- zext_16(nnn) + zext_16(V[0])`, not reduced. -/
def execJpV0 (nnn : Addr12) (s : State) : Result := goTo (zextAddr nnn + zextByte (s.getV 0#4)) s

end Sys2Proof.Machine
end

