-- ==== Sys2Proof/Machine/IndexRandom.lean ====
section
/-! DEFINITION. Kinds A and C: load index, random (spec/44_index_jump_random.md). -/

namespace Sys2Proof.Machine

/-- R191: `I <- zext_16(nnn)`. -/
def execLdI (nnn : Addr12) (s : State) : Result := complete (s.setI (zextAddr nnn))

/-- R193: `V[x] <- rnd & nn`, rnd a fresh free byte. -/
def execRnd (x : Nibble) (nn : Byte) (s : State) : Result :=
  complete ((s.setV x (s.randomByte &&& nn)).takeRandom)

end Sys2Proof.Machine
end

