-- ==== Sys2Proof/Machine/Keypad.lean ====
section
/-! DEFINITION. Kind E and Fx0A: keypad skips and the key wait (spec/46_keypad.md). -/

namespace Sys2Proof.Machine

/-- R222: skip if key `V[x]` is pressed. -/
def execSkp (x : Nibble) (s : State) : Result := skipIf (s.pressed (s.getV x)) s

/-- R223: skip if key `V[x]` is not pressed. -/
def execSknp (x : Nibble) (s : State) : Result := skipIf (!s.pressed (s.getV x)) s

/-- R224: with no key pressed the engine is blocked and the pc stays; else `V[x]` is the lowest pressed code and the
engine is unblocked. -/
def execLdVxK (x : Nibble) (s : State) : Result :=
  match s.firstKey with
  | none => goTo s.pc (s.setBlocked true)
  | some k => complete ((s.setV x (k.setWidth 8)).setBlocked false)

end Sys2Proof.Machine
end

