-- ==== Sys2Proof/Machine/LoadAdd.lean ====
section
/-! DEFINITION. Kinds 6, 7: load and add immediate (spec/42_load_add_imm.md). -/

namespace Sys2Proof.Machine

/-- R161: `V[x] <- nn`. -/
def execLdImm (x : Nibble) (nn : Byte) (s : State) : Result := complete (s.setV x nn)

/-- R162: `V[x] <- (V[x] + nn) mod 256`; VF is not written. -/
def execAddImm (x : Nibble) (nn : Byte) (s : State) : Result := complete (s.setV x (s.getV x + nn))

end Sys2Proof.Machine
end

