-- ==== Sys2Proof/Machine/Skips.lean ====
section
/-! DEFINITION. Kinds 3, 4, 5, 9: the conditional skips on registers (spec/41_skips.md). -/

namespace Sys2Proof.Machine

/-- R151: skip if `V[x] = nn`. -/
def execSeImm (x : Nibble) (nn : Byte) (s : State) : Result := skipIf (decide (s.getV x = nn)) s

/-- R152: skip if `V[x] ≠ nn`. -/
def execSneImm (x : Nibble) (nn : Byte) (s : State) : Result := skipIf (decide (s.getV x ≠ nn)) s

/-- R153: skip if `V[x] = V[y]`. -/
def execSeReg (x y : Nibble) (s : State) : Result := skipIf (decide (s.getV x = s.getV y)) s

/-- R154: skip if `V[x] ≠ V[y]`. -/
def execSneReg (x y : Nibble) (s : State) : Result := skipIf (decide (s.getV x ≠ s.getV y)) s

end Sys2Proof.Machine
end

