-- ==== Sys2Proof/Machine/TimerIndexMemory.lean ====
section
/-! DEFINITION. Kind F but Fx0A: timers, index arithmetic, BCD, register block store and load
(spec/47_fx_timers_index_memory.md). I is not modified by the memory instructions (R240). -/

namespace Sys2Proof.Machine

/-- R241: `V[x] <- DT`. -/
def execLdVxDt (x : Nibble) (s : State) : Result := complete (s.setV x s.dt)

/-- R242: `DT <- V[x]`. -/
def execLdDtVx (x : Nibble) (s : State) : Result := complete (s.setDt (s.getV x))

/-- R243: `ST <- V[x]`. -/
def execLdStVx (x : Nibble) (s : State) : Result := complete (s.setSt (s.getV x))

/-- R244: `I <- (I + zext_16(V[x])) mod 65536`; no flag. -/
def execAddIVx (x : Nibble) (s : State) : Result := complete (s.setI (s.i + zextByte (s.getV x)))

/-- R245: `I <- zext_16(V[x]) * 5`. -/
def execLdFVx (x : Nibble) (s : State) : Result := complete (s.setI (zextByte (s.getV x) * 5#16))

/-- R246: the decimal digits of `V[x]` at I, I+1, I+2. -/
def execLdBVx (x : Nibble) (s : State) : Result :=
  checkRange s.base 3 (.ldBVx x) s (complete (s.setMem (s.mem.writeBlock s.base (bcdDigits (s.getV x)))))

/-- R247: V0..Vx stored at I, I+1, ... -/
def execLdMemVx (x : Nibble) (s : State) : Result :=
  checkRange s.base (blockLen x) (.ldMemVx x) s (complete (s.setMem (s.mem.writeBlock s.base (s.regBlock x))))

/-- R248: V0..Vx loaded from I, I+1, ... -/
def execLdVxMem (x : Nibble) (s : State) : Result :=
  checkRange s.base (blockLen x) (.ldVxMem x) s (complete (s.setRegs 0 (s.mem.readBlock s.base (blockLen x))))

end Sys2Proof.Machine
end

