-- ==== Sys2Proof/Machine/Cycle.lean ====
section
/-! DEFINITION. One `Cycle` (rules R106, R107, R275), the status it returns (R13), and the host's other operations:
`Reset` (R310), `Load` (R312), `Tick` (R283), `SetKey` (R220) and the surface's external reset (R45). -/

namespace Sys2Proof.Machine

/-! ### Fetch and dispatch: R106 steps 1 to 8, in the priority of R275 -/

/-- What a cycle finds before any instruction runs. -/
inductive Fetched where
  /-- step 1: a fault is already set -/
  | faulted (f : FaultRecord)
  /-- step 3: a + 1 > 4095 -/
  | outOfBounds
  /-- step 4: the program-terminated sentinel -/
  | terminated
  /-- step 8: the word matches no row -/
  | unsupported (w : Word)
  /-- step 9: this instruction runs -/
  | instr (i : Instr)
  deriving DecidableEq, Repr

/-- R106 steps 5 to 8: the word at the pc and the instruction it selects. -/
def fetchInstr (s : State) : Fetched :=
  match decodeWord (s.mem.read16 s.pc.toNat) with
  | some i => .instr i
  | none => .unsupported (s.mem.read16 s.pc.toNat)

/-- R106 steps 1 to 8. -/
def fetch (s : State) : Fetched :=
  match s.fault with
  | some f => .faulted f
  | none =>
    if memSize - 1 < s.pc.toNat + 1 then .outOfBounds
    else if s.progEnd.toNat ≤ s.pc.toNat then .terminated
    else fetchInstr s

/-- The first `Cycle` ends the time in which `Load` is legal (R312). -/
def State.closeLoad (s : State) : State := { s with loadOpen := false }

/-- What the cycle then does (R106). -/
def runFetched (f : Fetched) (s : State) : Result :=
  match f with
  | .faulted _ => .next s
  | .outOfBounds => raise .outOfBounds none s
  | .terminated => .next s
  | .unsupported w => raise .unsupportedInstruction (some w) s
  | .instr i => exec i s

/-- One fetch-decode-execute cycle (R106). -/
def cycle (s : State) : Result := runFetched (fetch s) s.closeLoad

/-! ### The status a cycle returns (R13) -/

inductive Status where
  | ok
  | blocked
  | terminated
  | fault (cause : Fault)
  deriving DecidableEq, Repr

/-- The status when no fault stands after the cycle: only LD Vx,K with no key pressed blocks (R224, R225). -/
def statusOfFetched (f : Fetched) (s : State) : Status :=
  match f with
  | .terminated => .terminated
  | .instr (.ldVxK _) => if s.firstKey = none then .blocked else .ok
  | _ => .ok

/-- What `Cycle` returns when it takes `s` to `t` (R13, R106). -/
def cycleStatus (s t : State) : Status :=
  match t.fault with
  | some f => .fault f.cause
  | none => statusOfFetched (fetch s) s

/-! ### The host's other operations -/

/-- One count toward zero, never below (R283). -/
def countDown (b : Byte) : Byte := if b = 0#8 then b else b - 1#8

/-- `Tick()` (R283). -/
def State.tick (s : State) : State := { s with dt := countDown s.dt, st := countDown s.st }

/-- `SetKey(k, pressed)` (R220). -/
def State.setKey (s : State) (k : Nibble) (pressed : Bool) : State :=
  { s with keys := s.keys.set k.toNat pressed k.isLt }

/-- `Reset()` from any state (R310, R311): it touches neither the Display Surface nor, where the spec leaves them
unspecified, the stack's slots (log entry 4); what the host does next and the free bytes taken are not the
machine's to reset. -/
def State.hostReset (s : State) : State :=
  { State.reset with stack := s.stack, fb := s.fb, rndCount := s.rndCount, hostOps := s.hostOps,
                     hostPlan := s.hostPlan }

/-- PROG_BASE (R6). -/
def progBase : Nat := 0x200

/-- MAX_PROG (R7, R312). -/
def maxProg : Nat := 3584

/-- What `Load(bytes)` writes (R312). -/
def State.loaded (s : State) (bytes : List Byte) : State :=
  { s with mem := s.mem.writeBlock progBase bytes, progEnd := BitVec.ofNat 13 (progBase + bytes.length),
           loadOpen := false }

/-- `Load(bytes)` (R312): once, after `Reset` and before the first `Cycle`, at most MAX_PROG bytes; else no step. -/
def hostLoad (bytes : List Byte) (s : State) : Result :=
  if maxProg < bytes.length then .refused .loadTooLong
  else if s.loadOpen then .next (s.loaded bytes) else .refused .loadNotAllowed

/-- The surface's owner clears it (R45, R204). -/
def State.surfaceReset (s : State) : State := s.setFb Surface.cleared

/-- One host operation (R8). -/
def perform (op : HostOp) (s : State) : Result :=
  match op with
  | .reset => .next s.hostReset
  | .load bytes => hostLoad bytes s
  | .cycle => cycle s
  | .tick => .next s.tick
  | .setKey k p => .next (s.setKey k p)
  | .surfaceReset => .next s.surfaceReset

/-- The first operation of a plan (R318: the host is free to tick, to set a key, to reset, and never to cycle again). -/
def HostPlan.op : HostPlan → HostOp
  | .cycling => .cycle
  | .free k => Config.hostChoice k

/-- The plan behind its first operation. -/
def HostPlan.later : HostPlan → HostPlan
  | .cycling => .cycling
  | .free k => .free (k + 1)

/-- The operation the host invokes next: the oldest one listed, and with none listed the first of the plan (R8, R318,
R326). -/
def nextOp (s : State) : HostOp := s.hostOps.headD s.hostPlan.op

/-- That operation taken off the list, or off the plan. -/
def State.dequeue (s : State) : State :=
  { s with hostOps := s.hostOps.tail, hostPlan := if s.hostOps.isEmpty then s.hostPlan.later else s.hostPlan }

/-! ### Placing one instruction where the next step fetches it -/

/-- The address `placeWord` uses: the pc where a fetch can succeed, else PROG_BASE. -/
def placeAddr (s : State) : Nat := if s.pc.toNat + 1 ≤ memSize - 1 then s.pc.toNat else progBase

/-- `s` with a word at the next fetch address, high byte first, and all that makes the next step run it: no fault, no
operation listed and a host that cycles, `prog_end` beyond it, the load done. -/
def State.placeWord (s : State) (w : Word) : State :=
  { s with
    mem := s.mem.writeBlock (placeAddr s) [w.extractLsb' 8 8, w.extractLsb' 0 8]
    pc := BitVec.ofNat 16 (placeAddr s)
    fault := none
    progEnd := if s.progEnd.toNat < placeAddr s + 2 then BitVec.ofNat 13 (placeAddr s + 2) else s.progEnd
    hostOps := []
    hostPlan := .cycling
    loadOpen := false }

end Sys2Proof.Machine
end

