-- ==== Sys2Proof/Machine/Step.lean ====
section
/-! DEFINITION. One step: the host's next operation (rules R8, R9, R318, R326). -/

namespace Sys2Proof.Machine

/-- One atomic operation. -/
def step (s : State) : Host.Outcome State Fault Refusal := perform (nextOp s) s.dequeue

/-- `s` with the instruction whose bits are `w` (the bits from `nbits` up 0) where the next step fetches it. -/
def State.withFetchWord (s : State) (nbits w : Nat) : State := s.placeWord (BitVec.ofNat 16 (w % 2 ^ nbits))

end Sys2Proof.Machine
end

