-- ==== Sys2Proof/Safety.lean ====
section
/-! DEFINITION. What claims are stated in: results of an instruction with their frames, the invariant every step keeps,
the launched machine (rule R314), what a sprite covers (R203). No definition of the machine uses this file. -/

namespace Sys2Proof.Machine

/-! ### Results with their frames: every field not named is unchanged -/

/-- `t` is `s` with `V[x] = b` and the pc moved past the instruction; nothing else differs. -/
def RegResult (x : Nibble) (b : Byte) (s t : State) : Prop :=
  t.getV x = b ∧ (∀ z, z ≠ x → t.getV z = s.getV z) ∧ t.pc = s.pc + 2#16 ∧ t = { s with v := t.v, pc := t.pc }

/-- `t` is `s` with `V[x] = result`, VF = `flag` unless x is VF itself (R170 part 2), and the pc moved past the
instruction; nothing else differs. -/
def FlagResult (x : Nibble) (flag result : Byte) (s t : State) : Prop :=
  t.getV x = result ∧ (x ≠ 0xF#4 → t.getV 0xF#4 = flag) ∧
  (∀ z, z ≠ x → z ≠ 0xF#4 → t.getV z = s.getV z) ∧
  t.pc = s.pc + 2#16 ∧ t = { s with v := t.v, pc := t.pc }

/-- `t` is `s` with the pc at `target`; nothing else differs. -/
def PcResult (target : Word) (s t : State) : Prop := t = { s with pc := target }

/-- `t` is `s` with `bytes` stored from address `a` on and the pc moved past the instruction: each stored byte reads back,
every other address reads as before, nothing else differs. -/
def StoreResult (a : Nat) (bytes : List Byte) (s t : State) : Prop :=
  (∀ k b, bytes[k]? = some b → t.mem.read (a + k) = b) ∧
  (∀ c, c < a ∨ a + bytes.length ≤ c → t.mem.read c = s.mem.read c) ∧
  t.pc = s.pc + 2#16 ∧ t = { s with mem := t.mem, pc := t.pc }

/-- `t` is `s` with the failure record written; nothing else differs (R272). -/
def FaultResult (cause : Fault) (opcode : Option Word) (s t : State) : Prop :=
  t = { s with fault := some { cause := cause, pc := s.pc, opcode := opcode } }

/-! ### Classes of instructions the spec names -/

/-- The six instructions of R32 that write VF as a side effect. -/
def writesFlag : Instr → Bool
  | .addReg _ _ | .subReg _ _ | .shr _ _ | .subnReg _ _ | .shl _ _ | .drw _ _ _ => true
  | .cls | .ret | .sys _ | .jp _ | .call _ | .seImm _ _ | .sneImm _ _ | .seReg _ _ | .ldImm _ _ | .addImm _ _
  | .ldReg _ _ | .orReg _ _ | .andReg _ _ | .xorReg _ _ | .sneReg _ _ | .ldI _ | .jpV0 _ | .rnd _ _ | .skp _
  | .sknp _ | .ldVxDt _ | .ldVxK _ | .ldDtVx _ | .ldStVx _ | .addIVx _ | .ldFVx _ | .ldBVx _ | .ldMemVx _
  | .ldVxMem _ => false

/-- The register `x` an instruction writes its result to; for Fx65 the last register of the block V0..Vx. -/
def destReg : Instr → Option Nibble
  | .ldImm x _ | .addImm x _ | .ldReg x _ | .orReg x _ | .andReg x _ | .xorReg x _ | .addReg x _ | .subReg x _
  | .shr x _ | .subnReg x _ | .shl x _ | .rnd x _ | .ldVxDt x | .ldVxK x | .ldVxMem x => some x
  | .cls | .ret | .sys _ | .jp _ | .call _ | .seImm _ _ | .sneImm _ _ | .seReg _ _ | .sneReg _ _ | .ldI _ | .jpV0 _
  | .drw _ _ _ | .skp _ | .sknp _ | .ldDtVx _ | .ldStVx _ | .addIVx _ | .ldFVx _ | .ldBVx _ | .ldMemVx _ => none

/-! ### The Display Surface -/

/-- A set bit of the sprite falls on pixel `p`, wrapped on both axes; bit 7 of a row is its column 0 (R203, R205). -/
def SpriteCovers (w h : Nat) (x y : Byte) (rows : List Byte) (p : Pixel) : Prop :=
  ∃ k c b, rows[k]? = some b ∧ c < 8 ∧ b.getLsbD (7 - c) = true ∧ p = ((y.toNat + k) % h, (x.toNat + c) % w)

/-! ### The invariant -/

/-- Nothing but inputs and what reset leaves alone differs from the reset state: where `Load` is still legal (R312). -/
def State.fresh (s : State) : Prop :=
  s = { State.reset with stack := s.stack, keys := s.keys, fb := s.fb, rndCount := s.rndCount, hostOps := s.hostOps,
                         hostPlan := s.hostPlan }

/-- What a failure record says of the state it stands in (R43, R271, R272): it was raised at the present pc, and its
opcode is the word there, or absent because the pc is out of bounds. -/
def State.explains (s : State) (f : FaultRecord) : Prop :=
  f.pc = s.pc ∧
  match f.opcode with
  | some w => w = s.mem.read16 s.pc.toNat
  | none => f.cause = .outOfBounds ∧ memSize - 1 < s.pc.toNat + 1

/-- What every step keeps. -/
structure Inv (s : State) : Prop where
  /-- memory is in canonical form, inside 0..4095 (R70) -/
  mem : s.mem.wf = true
  /-- the pixel buffer is in canonical form, inside the surface (R45) -/
  surface : s.fb.wf dispW dispH = true
  /-- the range of prog_end (R44) -/
  progEnd : 0x200 ≤ s.progEnd.toNat ∧ s.progEnd.toNat ≤ 0x1000
  /-- pc never exceeds 0x10FE (R36) -/
  pc : s.pc.toNat ≤ 0x10FE
  /-- a pushed return address is at most 4096 (R36) -/
  stack : ∀ j, j < s.sp.val → (s.slot j).toNat ≤ 4096
  /-- while blocked the pc points at an LD Vx,K that a cycle can fetch (R42) -/
  blocked : s.blocked = true → s.pc.toNat + 1 ≤ memSize - 1 ∧ s.pc.toNat < s.progEnd.toNat ∧
    ∃ x, fetchInstr s = .instr (.ldVxK x)
  /-- a recorded fault is explained by the state it left (R272) -/
  fault : ∀ f, s.fault = some f → s.explains f
  /-- while `Load` is legal nothing has run (R312) -/
  loadOpen : s.loadOpen = true → s.fresh

/-! ### The launched machine -/

/-- `CleanSurface` of R314: every pixel of `fb` is 0. -/
def CleanSurface (s : State) : Prop := ∀ p, s.fb.isLit p = false

/-- `Launched(bytes)` of R314: the result of `Reset()`, from whatever state, followed by `Load(bytes)`, of at most 3584
bytes. -/
def Launched (bytes : List Byte) (s : State) : Prop :=
  bytes.length ≤ 3584 ∧ ∃ s0 : State, s = s0.hostReset.loaded bytes

/-- What a program finds when its first instruction runs (R313): the list of R314 but for the keys, which `SetKey` may have
changed since `Reset`. -/
def BootState (bytes : List Byte) (s : State) : Prop :=
  s.fault = none ∧ s.blocked = false ∧ s.sp.val = 0 ∧ s.pc = 0x200#16 ∧ s.progEnd.toNat = 0x200 + bytes.length ∧
  (∀ j b, bytes[j]? = some b → s.mem.read (0x200 + j) = b) ∧
  (∀ a, a < 80 → s.mem.read a = Config.font a) ∧
  (∀ a, 80 ≤ a → a < 0x200 ∨ 0x200 + bytes.length ≤ a → s.mem.read a = 0#8) ∧
  (∀ x, s.getV x = 0#8) ∧ s.i = 0#16 ∧ s.dt = 0#8 ∧ s.st = 0#8

end Sys2Proof.Machine
end

