-- ==== Sys2Proof/Certificates/Slice0/Obligations.lean ====
section
/-! DEFINITION. The statements for the provers. "Decision Dn" is the spec's own choice (spec/92_eei_decisions.md); a
statement that rests on one is derived and its docstring says so. -/

open Sys2Proof Sys2Proof.Machine

/-! ### Encoding -/

/-- R101: the six fields are the bit ranges 15:12, 11:8, 7:4, 3:0, 7:0 and 11:0, of every word; in memory the byte at `a`
is kind*16 + x and the byte at `a+1` is nn = y*16 + n. -/
def Obligations.FieldsAreTheBitRanges : Prop :=
  (∀ w : Word, (kind w).toNat = w.toNat / 4096 ∧ (fieldX w).toNat = w.toNat / 256 % 16 ∧
    (fieldY w).toNat = w.toNat / 16 % 16 ∧ (fieldN w).toNat = w.toNat % 16 ∧
    (fieldNN w).toNat = w.toNat % 256 ∧ (fieldNNN w).toNat = w.toNat % 4096) ∧
  ∀ (m : Memory) (a : Nat),
    (m.read a).toNat = (kind (m.read16 a)).toNat * 16 + (fieldX (m.read16 a)).toNat ∧
    m.read (a + 1) = fieldNN (m.read16 a) ∧
    (m.read (a + 1)).toNat = (fieldY (m.read16 a)).toNat * 16 + (fieldN (m.read16 a)).toNat

/-- Every well-formed instruction, with every operand, is what the decoder reads from its word and from its bytes. -/
def Obligations.DecodeOfEncode : Prop :=
  ∀ (i : Instr) (rest : List Byte), i.wf = true →
    decodeWord (encode i) = some i ∧ decodeBytes (encodeBytes i ++ rest) = .ok (i, rest)

/-- A word that selects an instruction is the word of that instruction, which is well formed. -/
def Obligations.EncodeOfDecode : Prop :=
  ∀ (w : Word) (i : Instr), decodeWord w = some i → encode i = w ∧ i.wf = true

/-- The decoder selects, for every word, the first row of the opcode map whose mask and match fit it, and none where no row
fits (R104; for kinds 5 and 9 this is decision D11). -/
def Obligations.DecoderAgreesWithOpcodeMap : Prop :=
  ∀ w : Word, (decodeWord w).map opcodeRowOf = opcodeRows.findIdx? (fun row => decide (w &&& row.1 = row.2))

/-- The illegal words are exactly those of the table in spec/30_encoding.md section 5 (for kinds 5 and 9 this is decision
D11). -/
def Obligations.IllegalWordsAreExactly : Prop :=
  ∀ w : Word, decodeWord w = none ↔
    ((kind w = 0x5#4 ∧ fieldN w ≠ 0#4) ∨
     (kind w = 0x8#4 ∧ fieldN w ∈ [0x8#4, 0x9#4, 0xA#4, 0xB#4, 0xC#4, 0xD#4, 0xF#4]) ∨
     (kind w = 0x9#4 ∧ fieldN w ≠ 0#4) ∨
     (kind w = 0xE#4 ∧ fieldNN w ∉ [0x9E#8, 0xA1#8]) ∨
     (kind w = 0xF#4 ∧ fieldNN w ∉ [0x07#8, 0x0A#8, 0x15#8, 0x18#8, 0x1E#8, 0x29#8, 0x33#8, 0x55#8, 0x65#8]))

/-- R109, R131: every word of kind 0 but 0x00E0 and 0x00EE is SYS, and SYS does nothing but advance the pc by 2. -/
def Obligations.SysSpaceIsNoOp : Prop :=
  (∀ w : Word, kind w = 0x0#4 → w ≠ 0x00E0#16 → w ≠ 0x00EE#16 →
    decodeWord w = some (.sys (fieldNNN w)) ∧
    ∀ s : State, exec (.sys (fieldNNN w)) s = .next { s with pc := s.pc + 2#16 }) ∧
  decodeWord 0x00E0#16 = some .cls ∧ decodeWord 0x00EE#16 = some .ret

/-- Words written out bit by bit from the encodings of spec/30_encoding.md and the decoder vectors of
spec/95_test_vectors.md section 2.1. -/
def Obligations.SpecWordsDecode : Prop :=
  decodeWord 0b0000000011100000#16 = some .cls ∧
  decodeWord 0b0001001000001000#16 = some (.jp 0x208#12) ∧
  decodeWord 0b0101000100100000#16 = some (.seReg 0x1#4 0x2#4) ∧
  decodeWord 0b0110000000001010#16 = some (.ldImm 0x0#4 0x0A#8) ∧
  decodeWord 0b1000101010110100#16 = some (.addReg 0xA#4 0xB#4) ∧
  decodeWord 0b1101000100101010#16 = some (.drw 0x1#4 0x2#4 0xA#4) ∧
  decodeWord 0b1110000010011110#16 = some (.skp 0x0#4) ∧
  decodeWord 0b1111111001100101#16 = some (.ldVxMem 0xE#4) ∧
  decodeWord 0b0101000100100001#16 = none ∧ decodeWord 0b1111000001110101#16 = none

/-! ### Fetch and the cycle -/

/-- The fetched word is the byte at the lower address times 256 plus the next byte. -/
def Obligations.FetchIsBigEndian : Prop :=
  ∀ (m : Memory) (a : Nat), (m.read16 a).toNat = (m.read a).toNat * 256 + (m.read (a + 1)).toNat

/-- Two bytes stored inside memory are the word the very next fetch reads there, high byte first: nothing stands between
stores and fetches. -/
def Obligations.FetchSeesStores : Prop :=
  ∀ (m : Memory) (a : Nat) (hi lo : Byte), m.wf = true → a + 2 ≤ 4096 →
    ((m.writeBlock a [hi, lo]).read16 a).toNat = hi.toNat * 256 + lo.toNat

/-- A step runs the decoded instruction: with a `Cycle` next, no fault, the pc on two bytes inside memory below `prog_end`,
and these bytes decoding to `i`, a step is `exec i` on the state with the load closed (R312) and the operation taken off
(log entry 5). What is next: the first operation listed, which is taken off the list; with none listed a `Cycle` again and
again, or, in the free plan, the free operations `Config.hostChoice k`, `k + 1`, ... for ever, of which any may be no
`Cycle` (the liberties of R318, the sequences of R326). -/
def Obligations.StepRunsDecodedInstruction : Prop :=
  (∀ (s : State) (i : Instr), nextOp s = .cycle → s.fault = none → s.pc.toNat + 1 ≤ 4095 →
    s.pc.toNat < s.progEnd.toNat →
    decodeBytes [s.mem.read s.pc.toNat, s.mem.read (s.pc.toNat + 1)] = .ok (i, []) →
    step s = exec i { s.dequeue with loadOpen := false }) ∧
  ∀ s : State, step s = perform (nextOp s) s.dequeue ∧
    (∀ op rest, s.hostOps = op :: rest → nextOp s = op ∧ s.dequeue = { s with hostOps := rest }) ∧
    (s.hostOps = [] → s.hostPlan = .cycling → nextOp s = .cycle ∧ s.dequeue = s) ∧
    ∀ k, s.hostOps = [] → s.hostPlan = .free k →
      nextOp s = Config.hostChoice k ∧ s.dequeue = { s with hostPlan := .free (k + 1) }

/-- A cycle at pc ≥ 4095 records OutOfBounds with no opcode, changes nothing else, and returns that fault (decisions D7, D8,
D17; the closed load and the operation taken off are the model's, log entry 5). -/
def Obligations.FetchBeyondMemoryFaults : Prop :=
  ∀ s : State, nextOp s = .cycle → s.fault = none → 4095 ≤ s.pc.toNat →
    ∃ t, step s = .next t ∧
      FaultResult .outOfBounds none { s.dequeue with loadOpen := false } t ∧
      cycleStatus s t = .fault .outOfBounds

/-- A cycle with the pc inside memory and at or beyond `prog_end` changes nothing and returns Terminated (decisions D6,
D7). -/
def Obligations.SentinelEndsTheRun : Prop :=
  ∀ s : State, nextOp s = .cycle → s.fault = none → s.pc.toNat ≤ 4094 → s.progEnd.toNat ≤ s.pc.toNat →
    ∃ t, step s = .next t ∧ t = { s.dequeue with loadOpen := false } ∧
      cycleStatus s t = .terminated

/-- A cycle that fetches a word matching no row records UnsupportedInstruction with the pc and the word, changes nothing
else, and returns that fault (decision D17). -/
def Obligations.IllegalWordFaults : Prop :=
  ∀ s : State, nextOp s = .cycle → s.fault = none → s.pc.toNat ≤ 4094 → s.pc.toNat < s.progEnd.toNat →
    decodeWord (s.mem.read16 s.pc.toNat) = none →
    ∃ t, step s = .next t ∧
      FaultResult .unsupportedInstruction (some (s.mem.read16 s.pc.toNat))
        { s.dequeue with loadOpen := false } t ∧
      cycleStatus s t = .fault .unsupportedInstruction

/-- With a fault recorded every cycle returns the same fault and changes nothing (decision D17). -/
def Obligations.FaultIsSticky : Prop :=
  ∀ (s : State) (f : FaultRecord), nextOp s = .cycle → s.fault = some f →
    ∃ t, step s = .next t ∧ t = { s.dequeue with loadOpen := false } ∧
      cycleStatus s t = .fault f.cause

/-- Only LD Vx,K can leave a cycle blocked, and then with no key pressed and the pc where it was. -/
def Obligations.OnlyKeyWaitBlocks : Prop :=
  ∀ s t : State, cycle s = .next t → cycleStatus s t = .blocked →
    (∃ x, decodeWord (s.mem.read16 s.pc.toNat) = some (.ldVxK x)) ∧ (∀ k, s.keyDown k = false) ∧
    t.pc = s.pc ∧ t.blocked = true

/-! ### Whole-machine rules -/

/-- Every instruction, in every state, has a next state, and so has every cycle: nothing the engine runs is refused. -/
def Obligations.EveryCycleHasANextState : Prop :=
  (∀ (i : Instr) (s : State), ∃ t, exec i s = .next t) ∧ ∀ s : State, ∃ t, cycle s = .next t

/-- An instruction that records a fault changes nothing else, and the record names the pc it ran at and its own word
(decision D17). -/
def Obligations.FaultingInstructionCommitsNothing : Prop :=
  ∀ (i : Instr) (s t : State) (f : FaultRecord), s.fault = none → exec i s = .next t → t.fault = some f →
    FaultResult f.cause (some (encode i)) s t

/-- Which fault an instruction can record, and the condition: CALL on a full stack, RET on an empty one, and an access of
DRW, Fx33, Fx55, Fx65 beyond 4095 (decision D9 for the last three). No other instruction records one. -/
def Obligations.EachFaultHasItsInstruction : Prop :=
  ∀ (i : Instr) (s t : State) (f : FaultRecord), s.fault = none → exec i s = .next t → t.fault = some f →
    (f.cause = .stackOverflow ∧ s.sp.val = 16 ∧ ∃ nnn, i = .call nnn) ∨
    (f.cause = .stackUnderflow ∧ s.sp.val = 0 ∧ i = .ret) ∨
    (f.cause = .outOfBounds ∧
      ((∃ x y n, i = .drw x y n ∧ 4096 < s.i.toNat + n.toNat) ∨
       (∃ x, i = .ldBVx x ∧ 4096 < s.i.toNat + 3) ∨
       (∃ x, (i = .ldMemVx x ∨ i = .ldVxMem x) ∧ 4096 < s.i.toNat + x.toNat + 1)))

/-- An instruction that is none of the six that write VF as a flag, and names no block or destination that reaches VF,
leaves VF alone. -/
def Obligations.OnlySixInstructionsWriteVFAsAFlag : Prop :=
  ∀ (i : Instr) (s t : State), exec i s = .next t → writesFlag i = false → destReg i ≠ some 0xF#4 →
    t.getV 0xF#4 = s.getV 0xF#4

/-- These parts of the state have their own writers (R72, R33, R37, R38, R39, R42, R193, R202): memory Fx33 and Fx55; I
Annn, Fx1E, Fx29; the stack CALL and RET; DT Fx15; ST Fx18; the surface CLS and DRW; the Blocked flag Fx0A; the random
bytes Cxkk. Every other instruction leaves that part alone. No instruction writes the keys or prog_end (R47), nor the
model's own fields of what the host does next and its load window (log entry 5). -/
def Obligations.EachPartHasItsOwnWriters : Prop :=
  ∀ (i : Instr) (s t : State), exec i s = .next t →
    ((∀ x, i ≠ .ldBVx x ∧ i ≠ .ldMemVx x) → t.mem = s.mem) ∧
    ((∀ nnn x, i ≠ .ldI nnn ∧ i ≠ .addIVx x ∧ i ≠ .ldFVx x) → t.i = s.i) ∧
    ((∀ nnn, i ≠ .call nnn ∧ i ≠ .ret) → t.sp = s.sp ∧ t.stack = s.stack) ∧
    ((∀ x, i ≠ .ldDtVx x) → t.dt = s.dt) ∧
    ((∀ x, i ≠ .ldStVx x) → t.st = s.st) ∧
    ((i ≠ .cls ∧ ∀ x y n, i ≠ .drw x y n) → t.fb = s.fb) ∧
    ((∀ x, i ≠ .ldVxK x) → t.blocked = s.blocked) ∧
    ((∀ x nn, i ≠ .rnd x nn) → t.rndCount = s.rndCount) ∧
    t.keys = s.keys ∧ t.progEnd = s.progEnd ∧ t.hostOps = s.hostOps ∧ t.hostPlan = s.hostPlan ∧ t.loadOpen = s.loadOpen

/-- Two canonical memories that read alike at every address are the same memory. -/
def Obligations.CanonicalMemoryIsItsReads : Prop :=
  ∀ m m' : Memory, m.wf = true → m'.wf = true → (∀ a, m.read a = m'.read a) → m = m'

/-- The state after reset meets the invariant. -/
def Obligations.ResetMeetsTheInvariant : Prop := Inv State.reset

/-- Every step, whatever operation it performs, keeps the invariant: canonical memory and surface, prog_end in
0x200..0x1000, pc ≤ 0x10FE, pushed return addresses ≤ 4096, a blocked engine at an LD Vx,K it can fetch, a recorded fault
explained by the state it left, and a machine that is fresh while `Load` is legal. -/
def Obligations.StepKeepsTheInvariant : Prop :=
  ∀ s t : State, Inv s → step s = .next t → Inv t

/-- What reset leaves: FONT at 0..79 and zero elsewhere, V, I, DT, ST zero, pc 0x200, an empty stack, keys released, not
blocked, no fault, prog_end 0x200, every pixel off. I, sp, blocked, fault, prog_end are decision D16; FONT is the open
parameter of log entry 2; the pixels are log entry 6. -/
def Obligations.ResetLeaves : Prop :=
  (∀ a, State.reset.mem.read a = if a < 80 then Config.font a else 0#8) ∧
  (∀ x, State.reset.getV x = 0#8) ∧ State.reset.i = 0#16 ∧ State.reset.pc = 0x200#16 ∧ State.reset.sp.val = 0 ∧
  State.reset.dt = 0#8 ∧ State.reset.st = 0#8 ∧ State.reset.sound = false ∧
  (∀ k, State.reset.keyDown k = false) ∧ State.reset.blocked = false ∧ State.reset.fault = none ∧
  State.reset.progEnd.toNat = 0x200 ∧ CleanSurface State.reset

/-! ### Kinds 0, 1, 2 and B -/

/-- R132, R204: CLS turns every pixel off and changes nothing else but the pc; the surface's own external reset turns every
pixel off and changes nothing else. -/
def Obligations.ClsTurnsEveryPixelOff : Prop :=
  (∀ s : State, ∃ t, exec .cls s = .next t ∧ CleanSurface t ∧
    t = { s with fb := t.fb, pc := s.pc + 2#16 }) ∧
  ∀ s : State, ∃ t, perform .surfaceReset s = .next t ∧ CleanSurface t ∧ t = { s with fb := t.fb }

/-- RET on a stack that is not empty takes the most recent entry into the pc, lowers the depth by one and changes nothing
else (that the popped slot too keeps its contents is the model's choice, log entry 4). -/
def Obligations.RetPopsTheStack : Prop :=
  ∀ s : State, s.sp.val ≠ 0 →
    ∃ t, exec .ret s = .next t ∧ t.sp.val = s.sp.val - 1 ∧ t = { s with sp := t.sp, pc := s.slot (s.sp.val - 1) }

/-- CALL on a stack that is not full stores the address of the next instruction in the slot at the old depth, raises the
depth by one, goes to nnn, and changes nothing else: no other slot (for slots above the depth this is the model's choice,
log entry 4). -/
def Obligations.CallPushesAndJumps : Prop :=
  ∀ (nnn : Addr12) (s : State), s.sp.val < 16 →
    ∃ t, exec (.call nnn) s = .next t ∧ t.pc.toNat = nnn.toNat ∧ t.sp.val = s.sp.val + 1 ∧
      t.slot s.sp.val = s.pc + 2#16 ∧ (∀ j, j ≠ s.sp.val → t.slot j = s.slot j) ∧
      t = { s with stack := t.stack, sp := t.sp, pc := t.pc }

/-- RET on an empty stack and CALL on a full one record their fault, with the pc and the word, and change nothing else
(decision D17). -/
def Obligations.StackDisciplineFaults : Prop :=
  (∀ s : State, s.sp.val = 0 →
    ∃ t, exec .ret s = .next t ∧ FaultResult .stackUnderflow (some 0x00EE#16) s t) ∧
  ∀ (nnn : Addr12) (s : State), s.sp.val = 16 →
    ∃ t, exec (.call nnn) s = .next t ∧
      FaultResult .stackOverflow (some (BitVec.ofNat 16 (0x2000 + nnn.toNat))) s t

/-- A RET that follows a CALL, whatever changed outside the stack in between, goes to the instruction after the CALL and
leaves the stack's depth, and every entry below it, as they were before the CALL. -/
def Obligations.RetRestoresTheCallersPc : Prop :=
  ∀ (nnn : Addr12) (s t u w : State), s.sp.val < 16 → exec (.call nnn) s = .next t →
    u.stack = t.stack → u.sp = t.sp → exec .ret u = .next w →
    w.pc = s.pc + 2#16 ∧ w.sp = s.sp ∧ ∀ j, j < s.sp.val → w.slot j = s.slot j

/-- R134: JP goes to nnn, zero-extended, and changes nothing else; with no fault recorded the cycle after it returns
OutOfBounds for nnn = 0xFFF, and Terminated for another nnn at or beyond prog_end. -/
def Obligations.JpGoesToItsAddress : Prop :=
  ∀ (nnn : Addr12) (s : State), ∃ t u, exec (.jp nnn) s = .next t ∧ t.pc.toNat = nnn.toNat ∧
    t = { s with pc := t.pc } ∧ cycle t = .next u ∧
    (s.fault = none → nnn = 0xFFF#12 → cycleStatus t u = .fault .outOfBounds) ∧
    (s.fault = none → nnn ≠ 0xFFF#12 → s.progEnd.toNat ≤ nnn.toNat → cycleStatus t u = .terminated)

/-- R192: JP V0 goes to nnn + V0, not reduced, whatever the x digit of nnn, and changes nothing else; with no fault
recorded the cycle after it returns OutOfBounds if the sum is 4095 (decision D8, log entry 10) or more (decision D7: also
at or beyond prog_end, log entry 9). -/
def Obligations.JpV0AddsV0 : Prop :=
  ∀ (nnn : Addr12) (s : State), ∃ t u, exec (.jpV0 nnn) s = .next t ∧
    t.pc.toNat = nnn.toNat + (s.getV 0x0#4).toNat ∧ t = { s with pc := t.pc } ∧ cycle t = .next u ∧
    (s.fault = none → 4095 ≤ nnn.toNat + (s.getV 0x0#4).toNat → cycleStatus t u = .fault .outOfBounds)

/-! ### Skips -/

/-- R151, R152: SE Vx,kk skips if V[x] = kk, SNE Vx,kk if V[x] ≠ kk; nothing but the pc changes. -/
def Obligations.SkipOnImmediate : Prop :=
  ∀ (x : Nibble) (nn : Byte) (s : State),
    (∃ t, exec (.seImm x nn) s = .next t ∧
      PcResult (if s.getV x = nn then s.pc + 4#16 else s.pc + 2#16) s t) ∧
    ∃ t, exec (.sneImm x nn) s = .next t ∧
      PcResult (if s.getV x ≠ nn then s.pc + 4#16 else s.pc + 2#16) s t

/-- SE Vx,Vy skips if V[x] = V[y], SNE Vx,Vy if V[x] ≠ V[y]; nothing but the pc changes. With x = y the first always and
the second never skips. -/
def Obligations.SkipOnRegisters : Prop :=
  (∀ (x y : Nibble) (s : State),
    (∃ t, exec (.seReg x y) s = .next t ∧
      PcResult (if s.getV x = s.getV y then s.pc + 4#16 else s.pc + 2#16) s t) ∧
    ∃ t, exec (.sneReg x y) s = .next t ∧
      PcResult (if s.getV x ≠ s.getV y then s.pc + 4#16 else s.pc + 2#16) s t) ∧
  ∀ (x : Nibble) (s : State), exec (.seReg x x) s = .next { s with pc := s.pc + 4#16 } ∧
    exec (.sneReg x x) s = .next { s with pc := s.pc + 2#16 }

/-- SKP skips exactly if V[x] is a key code 0..15 whose key is pressed, SKNP exactly if not; nothing but the pc changes (a
value above 15 reads as not pressed: decision D13). -/
def Obligations.SkipOnKey : Prop :=
  ∀ (x : Nibble) (s : State),
    (∀ k : Nibble, (s.getV x).toNat = k.toNat →
      (∃ t, exec (.skp x) s = .next t ∧ PcResult (if s.keyDown k then s.pc + 4#16 else s.pc + 2#16) s t) ∧
      ∃ t, exec (.sknp x) s = .next t ∧ PcResult (if s.keyDown k then s.pc + 2#16 else s.pc + 4#16) s t) ∧
    (15 < (s.getV x).toNat →
      (∃ t, exec (.skp x) s = .next t ∧ PcResult (s.pc + 2#16) s t) ∧
      ∃ t, exec (.sknp x) s = .next t ∧ PcResult (s.pc + 4#16) s t)

/-! ### Kinds 6, 7, 8 -/

/-- R161: LD Vx,kk. -/
def Obligations.LoadImmediate : Prop :=
  ∀ (x : Nibble) (nn : Byte) (s : State), ∃ t, exec (.ldImm x nn) s = .next t ∧ RegResult x nn s t

/-- R162: ADD Vx,kk adds modulo 256 and writes no flag: with x ≠ 0xF VF is among the registers that keep. -/
def Obligations.AddImmediate : Prop :=
  ∀ (x : Nibble) (nn : Byte) (s : State), ∃ t, exec (.addImm x nn) s = .next t ∧
    (t.getV x).toNat = ((s.getV x).toNat + nn.toNat) % 256 ∧ RegResult x (t.getV x) s t

/-- R171 to R174: LD, OR, AND, XOR of two registers, bit by bit; VF is not a flag here. -/
def Obligations.MoveAndLogic : Prop :=
  ∀ (x y : Nibble) (s : State),
    (∃ t, exec (.ldReg x y) s = .next t ∧ RegResult x (s.getV y) s t) ∧
    (∃ t, exec (.orReg x y) s = .next t ∧ RegResult x (s.getV x ||| s.getV y) s t) ∧
    (∃ t, exec (.andReg x y) s = .next t ∧ RegResult x (s.getV x &&& s.getV y) s t) ∧
    (∃ t, exec (.xorReg x y) s = .next t ∧ RegResult x (s.getV x ^^^ s.getV y) s t)

/-- R175: ADD Vx,Vy: the sum modulo 256, and VF = 1 exactly if the unwrapped sum exceeds 255, unless x is VF itself, where
the result remains. -/
def Obligations.AddRegisters : Prop :=
  ∀ (x y : Nibble) (s : State), ∃ t, exec (.addReg x y) s = .next t ∧
    (t.getV x).toNat = ((s.getV x).toNat + (s.getV y).toNat) % 256 ∧
    FlagResult x (if 255 < (s.getV x).toNat + (s.getV y).toNat then 1#8 else 0#8) (t.getV x) s t

/-- SUB and SUBN: the difference modulo 256, and VF = 1 exactly if no borrow was needed, judged on the values before. With
x or y = 0xF this rests on decision D12: operands are read first, VF is written before V[x]. -/
def Obligations.SubtractRegisters : Prop :=
  ∀ (x y : Nibble) (s : State),
    (∃ t, exec (.subReg x y) s = .next t ∧
      (t.getV x).toNat = ((s.getV x).toNat + 256 - (s.getV y).toNat) % 256 ∧
      FlagResult x (if (s.getV y).toNat ≤ (s.getV x).toNat then 1#8 else 0#8) (t.getV x) s t) ∧
    ∃ t, exec (.subnReg x y) s = .next t ∧
      (t.getV x).toNat = ((s.getV y).toNat + 256 - (s.getV x).toNat) % 256 ∧
      FlagResult x (if (s.getV x).toNat ≤ (s.getV y).toNat then 1#8 else 0#8) (t.getV x) s t

/-- SHR and SHL move V[x] by one bit, V[y] plays no part, and VF is the bit that left, 0 or 1. With x = 0xF this rests on
decision D12. -/
def Obligations.ShiftByOne : Prop :=
  ∀ (x y : Nibble) (s : State),
    (∃ t, exec (.shr x y) s = .next t ∧ (t.getV x).toNat = (s.getV x).toNat / 2 ∧
      FlagResult x (BitVec.ofNat 8 ((s.getV x).toNat % 2)) (t.getV x) s t) ∧
    ∃ t, exec (.shl x y) s = .next t ∧ (t.getV x).toNat = (s.getV x).toNat * 2 % 256 ∧
      FlagResult x (BitVec.ofNat 8 ((s.getV x).toNat / 128)) (t.getV x) s t

/-! ### Kinds A, C, D -/

/-- R191: LD I,addr: I is nnn, zero-extended; nothing else but the pc changes. -/
def Obligations.LoadIndex : Prop :=
  ∀ (nnn : Addr12) (s : State), ∃ t, exec (.ldI nnn) s = .next t ∧ t.i.toNat = nnn.toNat ∧
    t = { s with i := t.i, pc := s.pc + 2#16 }

/-- RND: V[x] is the free byte this execution receives, masked by nn; the next execution receives another free byte
(decision D5, log entry 3). So no bit outside nn is set, and the result is at most nn. -/
def Obligations.RandomIsMasked : Prop :=
  ∀ (x : Nibble) (nn : Byte) (s : State), ∃ t, exec (.rnd x nn) s = .next t ∧
    t.getV x = (Config.freeRnd s.rndCount &&& nn) ∧ (t.getV x &&& ~~~nn) = 0#8 ∧ (t.getV x).toNat ≤ nn.toNat ∧
    (∀ z, z ≠ x → t.getV z = s.getV z) ∧
    t = { s with v := t.v, rndCount := s.rndCount + 1, pc := s.pc + 2#16 }

/-- DRW inside memory: the surface is what draw_sprite makes of the n bytes at I, I+1, ... at V[x], V[y], VF is the
collision, 0 or 1, and nothing else but the pc changes; with n = 0 no address is formed (decision D25; the coordinates are
passed whole, D26). -/
def Obligations.DrawWritesCollision : Prop :=
  ∀ (x y n : Nibble) (s : State), n = 0#4 ∨ s.i.toNat + n.toNat ≤ 4096 →
    ∃ t rows, exec (.drw x y n) s = .next t ∧ rows.length = n.toNat ∧
      (∀ k, k < n.toNat → rows[k]? = some (s.mem.read (s.i.toNat + k))) ∧
      t.fb = (Surface.drawSprite dispW dispH (s.getV x) (s.getV y) rows s.fb).1 ∧
      t.getV 0xF#4 = (if (Surface.drawSprite dispW dispH (s.getV x) (s.getV y) rows s.fb).2 then 1#8 else 0#8) ∧
      (∀ z, z ≠ 0xF#4 → t.getV z = s.getV z) ∧
      t = { s with v := t.v, fb := t.fb, pc := s.pc + 2#16 }

/-- On a surface at least 8 wide and as high as the sprite, draw_sprite turns over exactly the pixels a set bit covers, and
reports a collision exactly if one of these was on (bit 7 of a row is column 0: decision D4). -/
def Obligations.DrawSpriteXorsCoveredPixels : Prop :=
  ∀ (w h : Nat) (x y : Byte) (rows : List Byte) (fb : Surface), 8 ≤ w → rows.length ≤ h → fb.sorted = true →
    (∀ p, (Surface.drawSprite w h x y rows fb).1.isLit p = true ↔
      ((fb.isLit p = true ∧ ¬ SpriteCovers w h x y rows p) ∨ (fb.isLit p = false ∧ SpriteCovers w h x y rows p))) ∧
    ((Surface.drawSprite w h x y rows fb).2 = true ↔ ∃ p, SpriteCovers w h x y rows p ∧ fb.isLit p = true)

/-- Drawing the same sprite twice at the same place restores the surface, whatever its size and content; on a surface at
least 8 wide and as high as the sprite the second draw reports a collision exactly if some covered pixel was off before
the first (which bit covers which column is decision D4, log entry 8). -/
def Obligations.DrawingTwiceRestores : Prop :=
  ∀ (w h : Nat) (x y : Byte) (rows : List Byte) (fb : Surface), fb.sorted = true →
    (Surface.drawSprite w h x y rows (Surface.drawSprite w h x y rows fb).1).1 = fb ∧
    (8 ≤ w → rows.length ≤ h →
      ((Surface.drawSprite w h x y rows (Surface.drawSprite w h x y rows fb).1).2 = true ↔
        ∃ p, SpriteCovers w h x y rows p ∧ fb.isLit p = false))

/-! ### The key wait -/

/-- LD Vx,K with no key pressed: the engine is blocked, the pc stays, nothing else changes, and the cycle returns Blocked
(decision D15: the rewind is inside the blocked cycle). -/
def Obligations.KeyWaitBlocks : Prop :=
  ∀ (x : Nibble) (s : State), (∀ k, s.keyDown k = false) →
    ∃ t, exec (.ldVxK x) s = .next t ∧ t = { s with blocked := true } ∧
      (t.fault = none → fetch s = .instr (.ldVxK x) → cycleStatus s t = .blocked)

/-- LD Vx,K with key k pressed and no lower one: V[x] is k, the engine is not blocked, nothing else but the pc changes
(decision D14: the lowest code). -/
def Obligations.KeyWaitTakesTheLowestKey : Prop :=
  ∀ (x k : Nibble) (s : State), s.keyDown k = true → (∀ j, j < k → s.keyDown j = false) →
    ∃ t, exec (.ldVxK x) s = .next t ∧ (t.getV x).toNat = k.toNat ∧ (∀ z, z ≠ x → t.getV z = s.getV z) ∧
      t = { s with v := t.v, blocked := false, pc := s.pc + 2#16 }

/-! ### Kind F -/

/-- R241: LD Vx,DT. -/
def Obligations.ReadDelayTimer : Prop :=
  ∀ (x : Nibble) (s : State), ∃ t, exec (.ldVxDt x) s = .next t ∧ RegResult x s.dt s t

/-- R242: LD DT,Vx writes DT and changes nothing else but the pc. -/
def Obligations.WriteDelayTimer : Prop :=
  ∀ (x : Nibble) (s : State), exec (.ldDtVx x) s = .next { s with dt := s.getV x, pc := s.pc + 2#16 }

/-- LD ST,Vx writes ST and changes nothing else but the pc; SOUND is on after it exactly if the value is not zero (SOUND =
(ST ≠ 0) is decision D19). -/
def Obligations.WriteSoundTimer : Prop :=
  ∀ (x : Nibble) (s : State), ∃ t, exec (.ldStVx x) s = .next t ∧
    t = { s with st := s.getV x, pc := s.pc + 2#16 } ∧ (t.sound = true ↔ s.getV x ≠ 0#8)

/-- ADD I,Vx adds modulo 65536 and LD F,Vx gives five times the whole byte; neither writes a flag, accesses memory or
changes anything else but the pc (decision D20). -/
def Obligations.IndexArithmetic : Prop :=
  ∀ (x : Nibble) (s : State),
    (∃ t, exec (.addIVx x) s = .next t ∧ t.i.toNat = (s.i.toNat + (s.getV x).toNat) % 65536 ∧
      t = { s with i := t.i, pc := s.pc + 2#16 }) ∧
    ∃ t, exec (.ldFVx x) s = .next t ∧ t.i.toNat = (s.getV x).toNat * 5 ∧ t = { s with i := t.i, pc := s.pc + 2#16 }

/-- LD B,Vx inside memory: hundreds, tens, ones at I, I+1, I+2, every other byte of memory as before, I and V[x] as before
(the bound is decision D9). -/
def Obligations.BcdStore : Prop :=
  ∀ (x : Nibble) (s : State), s.mem.wf = true → s.i.toNat + 3 ≤ 4096 →
    ∃ t h d o, exec (.ldBVx x) s = .next t ∧ StoreResult s.i.toNat [h, d, o] s t ∧
      h.toNat = (s.getV x).toNat / 100 ∧ d.toNat = (s.getV x).toNat / 10 % 10 ∧ o.toNat = (s.getV x).toNat % 10 ∧
      (s.getV x).toNat = 100 * h.toNat + 10 * d.toNat + o.toNat

/-- LD [I],Vx inside memory: V0..Vx at I..I+x, every other byte of memory as before, I and the registers as before (the
bound is decision D9, I unchanged is D24). -/
def Obligations.RegisterStore : Prop :=
  ∀ (x : Nibble) (s : State), s.mem.wf = true → s.i.toNat + x.toNat + 1 ≤ 4096 →
    ∃ t, exec (.ldMemVx x) s = .next t ∧
      (∀ k : Nibble, k.toNat ≤ x.toNat → t.mem.read (s.i.toNat + k.toNat) = s.getV k) ∧
      (∀ c, c < s.i.toNat ∨ s.i.toNat + x.toNat + 1 ≤ c → t.mem.read c = s.mem.read c) ∧
      t = { s with mem := t.mem, pc := s.pc + 2#16 }

/-- LD Vx,[I] inside memory: V0..Vx from I..I+x, registers above x as before, memory and I as before (the bound is decision
D9, I unchanged is D24). -/
def Obligations.RegisterLoad : Prop :=
  ∀ (x : Nibble) (s : State), s.i.toNat + x.toNat + 1 ≤ 4096 →
    ∃ t, exec (.ldVxMem x) s = .next t ∧
      (∀ k : Nibble, k.toNat ≤ x.toNat → t.getV k = s.mem.read (s.i.toNat + k.toNat)) ∧
      (∀ k : Nibble, x.toNat < k.toNat → t.getV k = s.getV k) ∧
      t = { s with v := t.v, pc := s.pc + 2#16 }

/-- A store of Fx55 that a load of Fx65 with the same x and I follows gives back V0..Vx, whatever happened to the registers
in between. -/
def Obligations.StoreThenLoadGivesBackTheBlock : Prop :=
  ∀ (x : Nibble) (s t u w : State), s.mem.wf = true → s.i.toNat + x.toNat + 1 ≤ 4096 →
    exec (.ldMemVx x) s = .next t → u.mem = t.mem → u.i = t.i → exec (.ldVxMem x) u = .next w →
    ∀ k : Nibble, k.toNat ≤ x.toNat → w.getV k = s.getV k

/-- DRW with n ≥ 1, Fx33, Fx55, Fx65 whose last byte lies beyond 4095 record OutOfBounds with the pc and their own word and
change nothing else (decisions D9, D17). -/
def Obligations.DataBeyondMemoryFaults : Prop :=
  ∀ s : State,
    (∀ x y n : Nibble, n ≠ 0#4 → 4095 < s.i.toNat + n.toNat - 1 →
      ∃ t, exec (.drw x y n) s = .next t ∧ FaultResult .outOfBounds (some (encode (.drw x y n))) s t) ∧
    (∀ x : Nibble, 4095 < s.i.toNat + 2 →
      ∃ t, exec (.ldBVx x) s = .next t ∧ FaultResult .outOfBounds (some (encode (.ldBVx x))) s t) ∧
    (∀ x : Nibble, 4095 < s.i.toNat + x.toNat →
      (∃ t, exec (.ldMemVx x) s = .next t ∧ FaultResult .outOfBounds (some (encode (.ldMemVx x))) s t) ∧
      ∃ t, exec (.ldVxMem x) s = .next t ∧ FaultResult .outOfBounds (some (encode (.ldVxMem x))) s t)

/-! ### The host's operations -/

/-- Tick lowers DT and ST by one each, neither below zero, and touches nothing else, in every engine state (the last is
decision D27) and whatever the host does afterwards (the operation taken off is the model's, log entry 5). -/
def Obligations.TickCountsDown : Prop :=
  ∀ s : State, nextOp s = .tick →
    ∃ t, step s = .next t ∧ t.dt.toNat = s.dt.toNat - 1 ∧ t.st.toNat = s.st.toNat - 1 ∧
      t = { s.dequeue with dt := t.dt, st := t.st }

/-- SetKey writes one key and touches nothing else of the machine, in every state and whatever the host does afterwards (the
operation taken off is the model's, log entry 5); no instruction writes a key. -/
def Obligations.SetKeyWritesOneKey : Prop :=
  (∀ (s : State) (k : Nibble) (p : Bool), nextOp s = .setKey k p →
    ∃ t, step s = .next t ∧ t.keyDown k = p ∧ (∀ j, j ≠ k → t.keyDown j = s.keyDown j) ∧
      t = { s.dequeue with keys := t.keys }) ∧
  ∀ (i : Instr) (s t : State), exec i s = .next t → t.keys = s.keys

/-- From a state that meets the invariant, a Load that is still legal and not too long leaves what R313 says a program finds,
with the bytes at 0x200, and, with all keys released, the launched machine of R314 (decision D21); it closes the load, and
the keys, the surface and the stack's slots are untouched. A Load too long or not legal is refused by name. From any state
Reset and then Load launch the machine and leave the surface as it was; and whatever is launched is as the list of R314
says, all keys released. (The operation taken off is the model's, log entry 5.) -/
def Obligations.LoadLaunchesOrIsRefused : Prop :=
  (∀ (s : State) (bytes : List Byte), Inv s → nextOp s = .load bytes →
    (bytes.length ≤ 3584 → s.loadOpen = true →
      ∃ t, step s = .next t ∧ BootState bytes t ∧ ((∀ k, s.keyDown k = false) → Launched bytes t) ∧
        t.loadOpen = false ∧ t = { s.dequeue with mem := t.mem, progEnd := t.progEnd, loadOpen := t.loadOpen }) ∧
    (3584 < bytes.length → step s = .refused .loadTooLong) ∧
    (bytes.length ≤ 3584 → s.loadOpen = false → step s = .refused .loadNotAllowed)) ∧
  (∀ (s : State) (bytes : List Byte) (rest : List HostOp), s.hostOps = .reset :: .load bytes :: rest →
    bytes.length ≤ 3584 →
    ∃ u t, step s = .next u ∧ step u = .next t ∧ Launched bytes t ∧ t.fb = s.fb ∧ (CleanSurface s → CleanSurface t)) ∧
  ∀ (s : State) (bytes : List Byte), Launched bytes s →
    bytes.length ≤ 3584 ∧ BootState bytes s ∧ ∀ k, s.keyDown k = false

/-- Reset, from any state, leaves every field as State.reset has it but for the pixels, which it does not touch, the stack's
slots (log entry 4), the free bytes taken and what the host does afterwards (decision D16, log entry 5). -/
def Obligations.ResetFromAnyState : Prop :=
  ∀ s : State, nextOp s = .reset →
    ∃ t, step s = .next t ∧ t.fb = s.fb ∧ t.hostOps = s.dequeue.hostOps ∧ t.hostPlan = s.dequeue.hostPlan ∧
      t.loadOpen = true ∧ t.fault = none ∧
      t.blocked = false ∧ t.sp.val = 0 ∧ t.pc = 0x200#16 ∧ t.progEnd.toNat = 0x200 ∧ t.i = 0#16 ∧ t.dt = 0#8 ∧
      t.st = 0#8 ∧ (∀ x, t.getV x = 0#8) ∧ (∀ k, t.keyDown k = false) ∧
      ∀ a, t.mem.read a = if a < 80 then Config.font a else 0#8
end

