-- ==== Sys2Proof/Laws/Encoding.lean ====
section
/-! SUPPORT. The six fields of a word put together from its parts, a word put together again from its fields, and what a
mask of the opcode map leaves of a word. -/

namespace Sys2Proof

/-! ### The fields of a word put together (R101, R102) -/

@[simp] theorem kind_word4 (k x y n : Nibble) : kind (word4 k x y n) = k := by
  ext j hj; simp [kind, word4]; grind
@[simp] theorem fieldX_word4 (k x y n : Nibble) : fieldX (word4 k x y n) = x := by
  ext j hj; simp [fieldX, word4]; grind
@[simp] theorem fieldY_word4 (k x y n : Nibble) : fieldY (word4 k x y n) = y := by
  ext j hj; simp [fieldY, word4]; grind
@[simp] theorem fieldN_word4 (k x y n : Nibble) : fieldN (word4 k x y n) = n := by
  ext j hj; simp [fieldN, word4]; grind

@[simp] theorem kind_wordXNN (k x : Nibble) (nn : Byte) : kind (wordXNN k x nn) = k := by
  ext j hj; simp [kind, wordXNN]; grind
@[simp] theorem fieldX_wordXNN (k x : Nibble) (nn : Byte) : fieldX (wordXNN k x nn) = x := by
  ext j hj; simp [fieldX, wordXNN]; grind
@[simp] theorem fieldNN_wordXNN (k x : Nibble) (nn : Byte) : fieldNN (wordXNN k x nn) = nn := by
  ext j hj; simp [fieldNN, wordXNN]; grind

@[simp] theorem kind_wordNNN (k : Nibble) (nnn : Addr12) : kind (wordNNN k nnn) = k := by
  ext j hj; simp [kind, wordNNN]; grind
@[simp] theorem fieldNNN_wordNNN (k : Nibble) (nnn : Addr12) : fieldNNN (wordNNN k nnn) = nnn := by
  ext j hj; simp [fieldNNN, wordNNN]; grind

/-! ### A word put together again from its fields -/

theorem word4_fields (w : Word) : word4 (kind w) (fieldX w) (fieldY w) (fieldN w) = w := by
  ext j hj; simp [kind, fieldX, fieldY, fieldN, word4]; grind
theorem wordXNN_fields (w : Word) : wordXNN (kind w) (fieldX w) (fieldNN w) = w := by
  ext j hj; simp [kind, fieldX, fieldNN, wordXNN]; grind
theorem wordNNN_fields (w : Word) : wordNNN (kind w) (fieldNNN w) = w := by
  ext j hj; simp [kind, fieldNNN, wordNNN]; grind

/-- The word read from the two bytes of a word is that word (R71). -/
theorem wordOfBytes_halves (w : Word) : wordOfBytes (w.extractLsb' 8 8) (w.extractLsb' 0 8) = w := by
  ext j hj; simp [wordOfBytes]; grind

/-! ### The masks of the opcode map (R104) -/

theorem word4_mask_F00F (k x y n : Nibble) : word4 k x y n &&& 0xF00F#16 = word4 k 0#4 0#4 n := by
  ext j hj; interval_cases j <;> simp [word4] <;> grind
theorem word4_mask_F000 (k x y n : Nibble) : word4 k x y n &&& 0xF000#16 = word4 k 0#4 0#4 0#4 := by
  ext j hj; interval_cases j <;> simp [word4] <;> grind
theorem wordXNN_mask_F000 (k x : Nibble) (nn : Byte) : wordXNN k x nn &&& 0xF000#16 = wordXNN k 0#4 0#8 := by
  ext j hj; interval_cases j <;> simp [wordXNN] <;> grind
theorem wordXNN_mask_F0FF (k x : Nibble) (nn : Byte) : wordXNN k x nn &&& 0xF0FF#16 = wordXNN k 0#4 nn := by
  ext j hj; interval_cases j <;> simp [wordXNN] <;> grind
theorem wordNNN_mask_F000 (k : Nibble) (nnn : Addr12) : wordNNN k nnn &&& 0xF000#16 = wordNNN k 0#12 := by
  ext j hj; interval_cases j <;> simp [wordNNN] <;> grind

end Sys2Proof
end

