-- ==== Sys2Proof/Laws/Memory.lean ====
section
/-! SUPPORT. Memory: a read after a write, what a write leaves alone, and that every memory operation keeps the canonical
form. -/

namespace Sys2Proof.Machine

/-! ### The canonical form -/

theorem Memory.wfFrom_mono {m : Memory} {low low' : Nat} (hle : low' ≤ low) (h : Memory.wfFrom low m = true) :
    Memory.wfFrom low' m = true := by
  cases m with
  | nil => rfl
  | cons cell rest =>
    simp only [Memory.wfFrom, Bool.and_eq_true, decide_eq_true_eq] at h ⊢
    exact ⟨⟨⟨hle.trans h.1.1.1, h.1.1.2⟩, h.1.2⟩, h.2⟩

/-- An address below every cell reads as the reset contents. -/
theorem Memory.read_below {m : Memory} {low a : Nat} (h : Memory.wfFrom low m = true) (ha : a < low) :
    m.read a = resetByte a := by
  induction m generalizing low with
  | nil => rfl
  | cons cell rest ih =>
    obtain ⟨k, b⟩ := cell
    simp only [Memory.wfFrom, Bool.and_eq_true, decide_eq_true_eq] at h
    simp only [Memory.read]
    rw [if_neg (by omega)]
    exact ih h.2 (by omega)

theorem Memory.wfFrom_write {m : Memory} {low a : Nat} {b : Byte} (h : Memory.wfFrom low m = true) (hlow : low ≤ a)
    (ha : a < memSize) : Memory.wfFrom low (m.write a b) = true := by
  induction m generalizing low with
  | nil =>
    simp only [Memory.write]
    split <;> simp_all [Memory.wfFrom]
  | cons cell rest ih =>
    obtain ⟨k, c⟩ := cell
    have hcell := h
    simp only [Memory.wfFrom, Bool.and_eq_true, decide_eq_true_eq] at h
    obtain ⟨⟨⟨h1, h2⟩, h3⟩, h4⟩ := h
    simp only [Memory.write]
    split
    · split
      · exact hcell
      · simp only [Memory.wfFrom, Bool.and_eq_true, decide_eq_true_eq]
        exact ⟨⟨⟨hlow, ha⟩, by assumption⟩, ⟨⟨by omega, h2⟩, h3⟩, h4⟩
    · split
      · split
        · exact Memory.wfFrom_mono (by omega) h4
        · simp only [Memory.wfFrom, Bool.and_eq_true, decide_eq_true_eq]
          subst a
          exact ⟨⟨⟨h1, h2⟩, by assumption⟩, h4⟩
      · simp only [Memory.wfFrom, Bool.and_eq_true, decide_eq_true_eq]
        exact ⟨⟨⟨h1, h2⟩, h3⟩, ih h4 (by omega)⟩

/-- A write inside memory keeps the canonical form. -/
theorem Memory.wf_write {m : Memory} {a : Nat} {b : Byte} (h : m.wf = true) (ha : a < memSize) :
    (m.write a b).wf = true :=
  Memory.wfFrom_write h (Nat.zero_le a) ha

/-- A block written inside memory keeps the canonical form. -/
theorem Memory.wf_writeBlock {m : Memory} {a : Nat} {bytes : List Byte} (h : m.wf = true)
    (ha : a + bytes.length ≤ memSize) : (m.writeBlock a bytes).wf = true := by
  induction bytes generalizing m a with
  | nil => exact h
  | cons b bs ih =>
    simp only [List.length_cons] at ha
    exact ih (Memory.wf_write h (by omega)) (by omega)

/-! ### Reads after writes -/

theorem Memory.read_write_same_from {m : Memory} {low a : Nat} {b : Byte} (h : Memory.wfFrom low m = true) :
    (m.write a b).read a = b := by
  induction m generalizing low with
  | nil =>
    simp only [Memory.write]
    split <;> simp_all [Memory.read]
  | cons cell rest ih =>
    obtain ⟨k, c⟩ := cell
    simp only [Memory.wfFrom, Bool.and_eq_true, decide_eq_true_eq] at h
    obtain ⟨⟨⟨h1, h2⟩, h3⟩, h4⟩ := h
    simp only [Memory.write]
    split
    · split
      · rw [Memory.read, if_neg (by omega), Memory.read_below h4 (by omega)]
        exact Eq.symm (by assumption)
      · simp [Memory.read]
    · split
      · split
        · rw [Memory.read_below h4 (by omega)]
          exact Eq.symm (by assumption)
        · simp [Memory.read]
      · rw [Memory.read, if_neg (by assumption)]
        exact ih h4

/-- A read after a write to the same address gives the byte written. -/
theorem Memory.read_write_same {m : Memory} {a : Nat} {b : Byte} (h : m.wf = true) : (m.write a b).read a = b :=
  Memory.read_write_same_from h

/-- A write leaves every other address alone. -/
theorem Memory.read_write_other {m : Memory} {a c : Nat} {b : Byte} (hne : c ≠ a) :
    (m.write a b).read c = m.read c := by
  induction m with
  | nil =>
    simp only [Memory.write]
    split <;> simp [Memory.read, hne]
  | cons cell rest ih =>
    obtain ⟨k, d⟩ := cell
    simp only [Memory.write]
    split
    · split
      · rfl
      · rw [Memory.read, if_neg hne]
    · split
      · subst a
        split <;> simp [Memory.read, hne]
      · simp only [Memory.read, ih]

/-- A block write leaves every address outside the block alone. -/
theorem Memory.read_writeBlock_outside {m : Memory} {a c : Nat} {bytes : List Byte}
    (hc : c < a ∨ a + bytes.length ≤ c) : (m.writeBlock a bytes).read c = m.read c := by
  induction bytes generalizing m a with
  | nil => rfl
  | cons b bs ih =>
    simp only [List.length_cons] at hc
    rw [Memory.writeBlock, ih (by omega), Memory.read_write_other (by omega)]

/-- The k-th byte of a block reads back. -/
theorem Memory.read_writeBlock_inside {m : Memory} {a k : Nat} {bytes : List Byte} {b : Byte} (h : m.wf = true)
    (hin : a + bytes.length ≤ memSize) (hb : bytes[k]? = some b) : (m.writeBlock a bytes).read (a + k) = b := by
  induction bytes generalizing m a k with
  | nil => simp at hb
  | cons c cs ih =>
    simp only [List.length_cons] at hin
    cases k with
    | zero =>
      simp only [List.getElem?_cons_zero, Option.some.injEq] at hb
      rw [Memory.writeBlock, Memory.read_writeBlock_outside (by omega), ← hb]
      exact Memory.read_write_same h
    | succ k =>
      rw [List.getElem?_cons_succ] at hb
      rw [Memory.writeBlock, show a + (k + 1) = (a + 1) + k by omega]
      exact ih (Memory.wf_write h (by omega)) (by omega) hb

/-! ### Block reads -/

@[simp] theorem Memory.length_readBlock (m : Memory) (a n : Nat) : (m.readBlock a n).length = n := by
  induction n generalizing a with
  | zero => rfl
  | succ n ih => simp [Memory.readBlock, ih]

/-- The k-th byte of a block is the byte at `a + k`. -/
theorem Memory.getElem?_readBlock (m : Memory) {a n k : Nat} (hk : k < n) :
    (m.readBlock a n)[k]? = some (m.read (a + k)) := by
  induction n generalizing a k with
  | zero => omega
  | succ n ih =>
    cases k with
    | zero => rfl
    | succ k =>
      rw [Memory.readBlock, List.getElem?_cons_succ, ih (by omega), show a + 1 + k = a + (k + 1) by omega]

end Sys2Proof.Machine
end

