-- ==== Sys2Proof/Laws/State.lean ====
section
/-! SUPPORT. One lemma per field per named update of State, true by rfl, so that no later proof unfolds a record update;
and the same for the reads `getV`, `slot`, `keyDown`. -/

namespace Sys2Proof.Machine

/-! ### setV -/

@[simp] theorem State.setV_mem (s : State) (x : Nibble) (b : Byte) : (s.setV x b).mem = s.mem := rfl
@[simp] theorem State.setV_i (s : State) (x : Nibble) (b : Byte) : (s.setV x b).i = s.i := rfl
@[simp] theorem State.setV_pc (s : State) (x : Nibble) (b : Byte) : (s.setV x b).pc = s.pc := rfl
@[simp] theorem State.setV_stack (s : State) (x : Nibble) (b : Byte) : (s.setV x b).stack = s.stack := rfl
@[simp] theorem State.setV_sp (s : State) (x : Nibble) (b : Byte) : (s.setV x b).sp = s.sp := rfl
@[simp] theorem State.setV_dt (s : State) (x : Nibble) (b : Byte) : (s.setV x b).dt = s.dt := rfl
@[simp] theorem State.setV_st (s : State) (x : Nibble) (b : Byte) : (s.setV x b).st = s.st := rfl
@[simp] theorem State.setV_keys (s : State) (x : Nibble) (b : Byte) : (s.setV x b).keys = s.keys := rfl
@[simp] theorem State.setV_blocked (s : State) (x : Nibble) (b : Byte) : (s.setV x b).blocked = s.blocked := rfl
@[simp] theorem State.setV_fault (s : State) (x : Nibble) (b : Byte) : (s.setV x b).fault = s.fault := rfl
@[simp] theorem State.setV_progEnd (s : State) (x : Nibble) (b : Byte) : (s.setV x b).progEnd = s.progEnd := rfl
@[simp] theorem State.setV_fb (s : State) (x : Nibble) (b : Byte) : (s.setV x b).fb = s.fb := rfl
@[simp] theorem State.setV_rndCount (s : State) (x : Nibble) (b : Byte) : (s.setV x b).rndCount = s.rndCount := rfl
@[simp] theorem State.setV_hostOps (s : State) (x : Nibble) (b : Byte) : (s.setV x b).hostOps = s.hostOps := rfl
@[simp] theorem State.setV_hostPlan (s : State) (x : Nibble) (b : Byte) : (s.setV x b).hostPlan = s.hostPlan := rfl
@[simp] theorem State.setV_loadOpen (s : State) (x : Nibble) (b : Byte) : (s.setV x b).loadOpen = s.loadOpen := rfl
@[simp] theorem State.setV_slot (s : State) (x : Nibble) (b : Byte) (j : Nat) : (s.setV x b).slot j = s.slot j := rfl
@[simp] theorem State.setV_keyDown (s : State) (x : Nibble) (b : Byte) (j : Nibble) : (s.setV x b).keyDown j = s.keyDown j := rfl

/-! ### setPc -/

@[simp] theorem State.setPc_mem (s : State) (a : Word) : (s.setPc a).mem = s.mem := rfl
@[simp] theorem State.setPc_v (s : State) (a : Word) : (s.setPc a).v = s.v := rfl
@[simp] theorem State.setPc_i (s : State) (a : Word) : (s.setPc a).i = s.i := rfl
@[simp] theorem State.setPc_pc (s : State) (a : Word) : (s.setPc a).pc = a := rfl
@[simp] theorem State.setPc_stack (s : State) (a : Word) : (s.setPc a).stack = s.stack := rfl
@[simp] theorem State.setPc_sp (s : State) (a : Word) : (s.setPc a).sp = s.sp := rfl
@[simp] theorem State.setPc_dt (s : State) (a : Word) : (s.setPc a).dt = s.dt := rfl
@[simp] theorem State.setPc_st (s : State) (a : Word) : (s.setPc a).st = s.st := rfl
@[simp] theorem State.setPc_keys (s : State) (a : Word) : (s.setPc a).keys = s.keys := rfl
@[simp] theorem State.setPc_blocked (s : State) (a : Word) : (s.setPc a).blocked = s.blocked := rfl
@[simp] theorem State.setPc_fault (s : State) (a : Word) : (s.setPc a).fault = s.fault := rfl
@[simp] theorem State.setPc_progEnd (s : State) (a : Word) : (s.setPc a).progEnd = s.progEnd := rfl
@[simp] theorem State.setPc_fb (s : State) (a : Word) : (s.setPc a).fb = s.fb := rfl
@[simp] theorem State.setPc_rndCount (s : State) (a : Word) : (s.setPc a).rndCount = s.rndCount := rfl
@[simp] theorem State.setPc_hostOps (s : State) (a : Word) : (s.setPc a).hostOps = s.hostOps := rfl
@[simp] theorem State.setPc_hostPlan (s : State) (a : Word) : (s.setPc a).hostPlan = s.hostPlan := rfl
@[simp] theorem State.setPc_loadOpen (s : State) (a : Word) : (s.setPc a).loadOpen = s.loadOpen := rfl
@[simp] theorem State.setPc_getV (s : State) (a : Word) (z : Nibble) : (s.setPc a).getV z = s.getV z := rfl
@[simp] theorem State.setPc_slot (s : State) (a : Word) (j : Nat) : (s.setPc a).slot j = s.slot j := rfl
@[simp] theorem State.setPc_keyDown (s : State) (a : Word) (j : Nibble) : (s.setPc a).keyDown j = s.keyDown j := rfl

/-! ### setI -/

@[simp] theorem State.setI_mem (s : State) (a : Word) : (s.setI a).mem = s.mem := rfl
@[simp] theorem State.setI_v (s : State) (a : Word) : (s.setI a).v = s.v := rfl
@[simp] theorem State.setI_i (s : State) (a : Word) : (s.setI a).i = a := rfl
@[simp] theorem State.setI_pc (s : State) (a : Word) : (s.setI a).pc = s.pc := rfl
@[simp] theorem State.setI_stack (s : State) (a : Word) : (s.setI a).stack = s.stack := rfl
@[simp] theorem State.setI_sp (s : State) (a : Word) : (s.setI a).sp = s.sp := rfl
@[simp] theorem State.setI_dt (s : State) (a : Word) : (s.setI a).dt = s.dt := rfl
@[simp] theorem State.setI_st (s : State) (a : Word) : (s.setI a).st = s.st := rfl
@[simp] theorem State.setI_keys (s : State) (a : Word) : (s.setI a).keys = s.keys := rfl
@[simp] theorem State.setI_blocked (s : State) (a : Word) : (s.setI a).blocked = s.blocked := rfl
@[simp] theorem State.setI_fault (s : State) (a : Word) : (s.setI a).fault = s.fault := rfl
@[simp] theorem State.setI_progEnd (s : State) (a : Word) : (s.setI a).progEnd = s.progEnd := rfl
@[simp] theorem State.setI_fb (s : State) (a : Word) : (s.setI a).fb = s.fb := rfl
@[simp] theorem State.setI_rndCount (s : State) (a : Word) : (s.setI a).rndCount = s.rndCount := rfl
@[simp] theorem State.setI_hostOps (s : State) (a : Word) : (s.setI a).hostOps = s.hostOps := rfl
@[simp] theorem State.setI_hostPlan (s : State) (a : Word) : (s.setI a).hostPlan = s.hostPlan := rfl
@[simp] theorem State.setI_loadOpen (s : State) (a : Word) : (s.setI a).loadOpen = s.loadOpen := rfl
@[simp] theorem State.setI_getV (s : State) (a : Word) (z : Nibble) : (s.setI a).getV z = s.getV z := rfl
@[simp] theorem State.setI_slot (s : State) (a : Word) (j : Nat) : (s.setI a).slot j = s.slot j := rfl
@[simp] theorem State.setI_keyDown (s : State) (a : Word) (j : Nibble) : (s.setI a).keyDown j = s.keyDown j := rfl

/-! ### setMem -/

@[simp] theorem State.setMem_mem (s : State) (m : Memory) : (s.setMem m).mem = m := rfl
@[simp] theorem State.setMem_v (s : State) (m : Memory) : (s.setMem m).v = s.v := rfl
@[simp] theorem State.setMem_i (s : State) (m : Memory) : (s.setMem m).i = s.i := rfl
@[simp] theorem State.setMem_pc (s : State) (m : Memory) : (s.setMem m).pc = s.pc := rfl
@[simp] theorem State.setMem_stack (s : State) (m : Memory) : (s.setMem m).stack = s.stack := rfl
@[simp] theorem State.setMem_sp (s : State) (m : Memory) : (s.setMem m).sp = s.sp := rfl
@[simp] theorem State.setMem_dt (s : State) (m : Memory) : (s.setMem m).dt = s.dt := rfl
@[simp] theorem State.setMem_st (s : State) (m : Memory) : (s.setMem m).st = s.st := rfl
@[simp] theorem State.setMem_keys (s : State) (m : Memory) : (s.setMem m).keys = s.keys := rfl
@[simp] theorem State.setMem_blocked (s : State) (m : Memory) : (s.setMem m).blocked = s.blocked := rfl
@[simp] theorem State.setMem_fault (s : State) (m : Memory) : (s.setMem m).fault = s.fault := rfl
@[simp] theorem State.setMem_progEnd (s : State) (m : Memory) : (s.setMem m).progEnd = s.progEnd := rfl
@[simp] theorem State.setMem_fb (s : State) (m : Memory) : (s.setMem m).fb = s.fb := rfl
@[simp] theorem State.setMem_rndCount (s : State) (m : Memory) : (s.setMem m).rndCount = s.rndCount := rfl
@[simp] theorem State.setMem_hostOps (s : State) (m : Memory) : (s.setMem m).hostOps = s.hostOps := rfl
@[simp] theorem State.setMem_hostPlan (s : State) (m : Memory) : (s.setMem m).hostPlan = s.hostPlan := rfl
@[simp] theorem State.setMem_loadOpen (s : State) (m : Memory) : (s.setMem m).loadOpen = s.loadOpen := rfl
@[simp] theorem State.setMem_getV (s : State) (m : Memory) (z : Nibble) : (s.setMem m).getV z = s.getV z := rfl
@[simp] theorem State.setMem_slot (s : State) (m : Memory) (j : Nat) : (s.setMem m).slot j = s.slot j := rfl
@[simp] theorem State.setMem_keyDown (s : State) (m : Memory) (j : Nibble) : (s.setMem m).keyDown j = s.keyDown j := rfl

/-! ### setDt -/

@[simp] theorem State.setDt_mem (s : State) (b : Byte) : (s.setDt b).mem = s.mem := rfl
@[simp] theorem State.setDt_v (s : State) (b : Byte) : (s.setDt b).v = s.v := rfl
@[simp] theorem State.setDt_i (s : State) (b : Byte) : (s.setDt b).i = s.i := rfl
@[simp] theorem State.setDt_pc (s : State) (b : Byte) : (s.setDt b).pc = s.pc := rfl
@[simp] theorem State.setDt_stack (s : State) (b : Byte) : (s.setDt b).stack = s.stack := rfl
@[simp] theorem State.setDt_sp (s : State) (b : Byte) : (s.setDt b).sp = s.sp := rfl
@[simp] theorem State.setDt_dt (s : State) (b : Byte) : (s.setDt b).dt = b := rfl
@[simp] theorem State.setDt_st (s : State) (b : Byte) : (s.setDt b).st = s.st := rfl
@[simp] theorem State.setDt_keys (s : State) (b : Byte) : (s.setDt b).keys = s.keys := rfl
@[simp] theorem State.setDt_blocked (s : State) (b : Byte) : (s.setDt b).blocked = s.blocked := rfl
@[simp] theorem State.setDt_fault (s : State) (b : Byte) : (s.setDt b).fault = s.fault := rfl
@[simp] theorem State.setDt_progEnd (s : State) (b : Byte) : (s.setDt b).progEnd = s.progEnd := rfl
@[simp] theorem State.setDt_fb (s : State) (b : Byte) : (s.setDt b).fb = s.fb := rfl
@[simp] theorem State.setDt_rndCount (s : State) (b : Byte) : (s.setDt b).rndCount = s.rndCount := rfl
@[simp] theorem State.setDt_hostOps (s : State) (b : Byte) : (s.setDt b).hostOps = s.hostOps := rfl
@[simp] theorem State.setDt_hostPlan (s : State) (b : Byte) : (s.setDt b).hostPlan = s.hostPlan := rfl
@[simp] theorem State.setDt_loadOpen (s : State) (b : Byte) : (s.setDt b).loadOpen = s.loadOpen := rfl
@[simp] theorem State.setDt_getV (s : State) (b : Byte) (z : Nibble) : (s.setDt b).getV z = s.getV z := rfl
@[simp] theorem State.setDt_slot (s : State) (b : Byte) (j : Nat) : (s.setDt b).slot j = s.slot j := rfl
@[simp] theorem State.setDt_keyDown (s : State) (b : Byte) (j : Nibble) : (s.setDt b).keyDown j = s.keyDown j := rfl

/-! ### setSt -/

@[simp] theorem State.setSt_mem (s : State) (b : Byte) : (s.setSt b).mem = s.mem := rfl
@[simp] theorem State.setSt_v (s : State) (b : Byte) : (s.setSt b).v = s.v := rfl
@[simp] theorem State.setSt_i (s : State) (b : Byte) : (s.setSt b).i = s.i := rfl
@[simp] theorem State.setSt_pc (s : State) (b : Byte) : (s.setSt b).pc = s.pc := rfl
@[simp] theorem State.setSt_stack (s : State) (b : Byte) : (s.setSt b).stack = s.stack := rfl
@[simp] theorem State.setSt_sp (s : State) (b : Byte) : (s.setSt b).sp = s.sp := rfl
@[simp] theorem State.setSt_dt (s : State) (b : Byte) : (s.setSt b).dt = s.dt := rfl
@[simp] theorem State.setSt_st (s : State) (b : Byte) : (s.setSt b).st = b := rfl
@[simp] theorem State.setSt_keys (s : State) (b : Byte) : (s.setSt b).keys = s.keys := rfl
@[simp] theorem State.setSt_blocked (s : State) (b : Byte) : (s.setSt b).blocked = s.blocked := rfl
@[simp] theorem State.setSt_fault (s : State) (b : Byte) : (s.setSt b).fault = s.fault := rfl
@[simp] theorem State.setSt_progEnd (s : State) (b : Byte) : (s.setSt b).progEnd = s.progEnd := rfl
@[simp] theorem State.setSt_fb (s : State) (b : Byte) : (s.setSt b).fb = s.fb := rfl
@[simp] theorem State.setSt_rndCount (s : State) (b : Byte) : (s.setSt b).rndCount = s.rndCount := rfl
@[simp] theorem State.setSt_hostOps (s : State) (b : Byte) : (s.setSt b).hostOps = s.hostOps := rfl
@[simp] theorem State.setSt_hostPlan (s : State) (b : Byte) : (s.setSt b).hostPlan = s.hostPlan := rfl
@[simp] theorem State.setSt_loadOpen (s : State) (b : Byte) : (s.setSt b).loadOpen = s.loadOpen := rfl
@[simp] theorem State.setSt_getV (s : State) (b : Byte) (z : Nibble) : (s.setSt b).getV z = s.getV z := rfl
@[simp] theorem State.setSt_slot (s : State) (b : Byte) (j : Nat) : (s.setSt b).slot j = s.slot j := rfl
@[simp] theorem State.setSt_keyDown (s : State) (b : Byte) (j : Nibble) : (s.setSt b).keyDown j = s.keyDown j := rfl

/-! ### setFb -/

@[simp] theorem State.setFb_mem (s : State) (fb : Surface) : (s.setFb fb).mem = s.mem := rfl
@[simp] theorem State.setFb_v (s : State) (fb : Surface) : (s.setFb fb).v = s.v := rfl
@[simp] theorem State.setFb_i (s : State) (fb : Surface) : (s.setFb fb).i = s.i := rfl
@[simp] theorem State.setFb_pc (s : State) (fb : Surface) : (s.setFb fb).pc = s.pc := rfl
@[simp] theorem State.setFb_stack (s : State) (fb : Surface) : (s.setFb fb).stack = s.stack := rfl
@[simp] theorem State.setFb_sp (s : State) (fb : Surface) : (s.setFb fb).sp = s.sp := rfl
@[simp] theorem State.setFb_dt (s : State) (fb : Surface) : (s.setFb fb).dt = s.dt := rfl
@[simp] theorem State.setFb_st (s : State) (fb : Surface) : (s.setFb fb).st = s.st := rfl
@[simp] theorem State.setFb_keys (s : State) (fb : Surface) : (s.setFb fb).keys = s.keys := rfl
@[simp] theorem State.setFb_blocked (s : State) (fb : Surface) : (s.setFb fb).blocked = s.blocked := rfl
@[simp] theorem State.setFb_fault (s : State) (fb : Surface) : (s.setFb fb).fault = s.fault := rfl
@[simp] theorem State.setFb_progEnd (s : State) (fb : Surface) : (s.setFb fb).progEnd = s.progEnd := rfl
@[simp] theorem State.setFb_fb (s : State) (fb : Surface) : (s.setFb fb).fb = fb := rfl
@[simp] theorem State.setFb_rndCount (s : State) (fb : Surface) : (s.setFb fb).rndCount = s.rndCount := rfl
@[simp] theorem State.setFb_hostOps (s : State) (fb : Surface) : (s.setFb fb).hostOps = s.hostOps := rfl
@[simp] theorem State.setFb_hostPlan (s : State) (fb : Surface) : (s.setFb fb).hostPlan = s.hostPlan := rfl
@[simp] theorem State.setFb_loadOpen (s : State) (fb : Surface) : (s.setFb fb).loadOpen = s.loadOpen := rfl
@[simp] theorem State.setFb_getV (s : State) (fb : Surface) (z : Nibble) : (s.setFb fb).getV z = s.getV z := rfl
@[simp] theorem State.setFb_slot (s : State) (fb : Surface) (j : Nat) : (s.setFb fb).slot j = s.slot j := rfl
@[simp] theorem State.setFb_keyDown (s : State) (fb : Surface) (j : Nibble) : (s.setFb fb).keyDown j = s.keyDown j := rfl

/-! ### setBlocked -/

@[simp] theorem State.setBlocked_mem (s : State) (b : Bool) : (s.setBlocked b).mem = s.mem := rfl
@[simp] theorem State.setBlocked_v (s : State) (b : Bool) : (s.setBlocked b).v = s.v := rfl
@[simp] theorem State.setBlocked_i (s : State) (b : Bool) : (s.setBlocked b).i = s.i := rfl
@[simp] theorem State.setBlocked_pc (s : State) (b : Bool) : (s.setBlocked b).pc = s.pc := rfl
@[simp] theorem State.setBlocked_stack (s : State) (b : Bool) : (s.setBlocked b).stack = s.stack := rfl
@[simp] theorem State.setBlocked_sp (s : State) (b : Bool) : (s.setBlocked b).sp = s.sp := rfl
@[simp] theorem State.setBlocked_dt (s : State) (b : Bool) : (s.setBlocked b).dt = s.dt := rfl
@[simp] theorem State.setBlocked_st (s : State) (b : Bool) : (s.setBlocked b).st = s.st := rfl
@[simp] theorem State.setBlocked_keys (s : State) (b : Bool) : (s.setBlocked b).keys = s.keys := rfl
@[simp] theorem State.setBlocked_blocked (s : State) (b : Bool) : (s.setBlocked b).blocked = b := rfl
@[simp] theorem State.setBlocked_fault (s : State) (b : Bool) : (s.setBlocked b).fault = s.fault := rfl
@[simp] theorem State.setBlocked_progEnd (s : State) (b : Bool) : (s.setBlocked b).progEnd = s.progEnd := rfl
@[simp] theorem State.setBlocked_fb (s : State) (b : Bool) : (s.setBlocked b).fb = s.fb := rfl
@[simp] theorem State.setBlocked_rndCount (s : State) (b : Bool) : (s.setBlocked b).rndCount = s.rndCount := rfl
@[simp] theorem State.setBlocked_hostOps (s : State) (b : Bool) : (s.setBlocked b).hostOps = s.hostOps := rfl
@[simp] theorem State.setBlocked_hostPlan (s : State) (b : Bool) : (s.setBlocked b).hostPlan = s.hostPlan := rfl
@[simp] theorem State.setBlocked_loadOpen (s : State) (b : Bool) : (s.setBlocked b).loadOpen = s.loadOpen := rfl
@[simp] theorem State.setBlocked_getV (s : State) (b : Bool) (z : Nibble) : (s.setBlocked b).getV z = s.getV z := rfl
@[simp] theorem State.setBlocked_slot (s : State) (b : Bool) (j : Nat) : (s.setBlocked b).slot j = s.slot j := rfl
@[simp] theorem State.setBlocked_keyDown (s : State) (b : Bool) (j : Nibble) : (s.setBlocked b).keyDown j = s.keyDown j := rfl

/-! ### setFault -/

@[simp] theorem State.setFault_mem (s : State) (f : FaultRecord) : (s.setFault f).mem = s.mem := rfl
@[simp] theorem State.setFault_v (s : State) (f : FaultRecord) : (s.setFault f).v = s.v := rfl
@[simp] theorem State.setFault_i (s : State) (f : FaultRecord) : (s.setFault f).i = s.i := rfl
@[simp] theorem State.setFault_pc (s : State) (f : FaultRecord) : (s.setFault f).pc = s.pc := rfl
@[simp] theorem State.setFault_stack (s : State) (f : FaultRecord) : (s.setFault f).stack = s.stack := rfl
@[simp] theorem State.setFault_sp (s : State) (f : FaultRecord) : (s.setFault f).sp = s.sp := rfl
@[simp] theorem State.setFault_dt (s : State) (f : FaultRecord) : (s.setFault f).dt = s.dt := rfl
@[simp] theorem State.setFault_st (s : State) (f : FaultRecord) : (s.setFault f).st = s.st := rfl
@[simp] theorem State.setFault_keys (s : State) (f : FaultRecord) : (s.setFault f).keys = s.keys := rfl
@[simp] theorem State.setFault_blocked (s : State) (f : FaultRecord) : (s.setFault f).blocked = s.blocked := rfl
@[simp] theorem State.setFault_fault (s : State) (f : FaultRecord) : (s.setFault f).fault = some f := rfl
@[simp] theorem State.setFault_progEnd (s : State) (f : FaultRecord) : (s.setFault f).progEnd = s.progEnd := rfl
@[simp] theorem State.setFault_fb (s : State) (f : FaultRecord) : (s.setFault f).fb = s.fb := rfl
@[simp] theorem State.setFault_rndCount (s : State) (f : FaultRecord) : (s.setFault f).rndCount = s.rndCount := rfl
@[simp] theorem State.setFault_hostOps (s : State) (f : FaultRecord) : (s.setFault f).hostOps = s.hostOps := rfl
@[simp] theorem State.setFault_hostPlan (s : State) (f : FaultRecord) : (s.setFault f).hostPlan = s.hostPlan := rfl
@[simp] theorem State.setFault_loadOpen (s : State) (f : FaultRecord) : (s.setFault f).loadOpen = s.loadOpen := rfl
@[simp] theorem State.setFault_getV (s : State) (f : FaultRecord) (z : Nibble) : (s.setFault f).getV z = s.getV z := rfl
@[simp] theorem State.setFault_slot (s : State) (f : FaultRecord) (j : Nat) : (s.setFault f).slot j = s.slot j := rfl
@[simp] theorem State.setFault_keyDown (s : State) (f : FaultRecord) (j : Nibble) : (s.setFault f).keyDown j = s.keyDown j := rfl

/-! ### push -/

@[simp] theorem State.push_mem (s : State) (a : Word) : (s.push a).mem = s.mem := rfl
@[simp] theorem State.push_v (s : State) (a : Word) : (s.push a).v = s.v := rfl
@[simp] theorem State.push_i (s : State) (a : Word) : (s.push a).i = s.i := rfl
@[simp] theorem State.push_pc (s : State) (a : Word) : (s.push a).pc = s.pc := rfl
@[simp] theorem State.push_stack (s : State) (a : Word) : (s.push a).stack = s.stack.setIfInBounds s.sp.val a := rfl
@[simp] theorem State.push_sp (s : State) (a : Word) : (s.push a).sp = Fin.ofNat 17 (s.sp.val + 1) := rfl
@[simp] theorem State.push_dt (s : State) (a : Word) : (s.push a).dt = s.dt := rfl
@[simp] theorem State.push_st (s : State) (a : Word) : (s.push a).st = s.st := rfl
@[simp] theorem State.push_keys (s : State) (a : Word) : (s.push a).keys = s.keys := rfl
@[simp] theorem State.push_blocked (s : State) (a : Word) : (s.push a).blocked = s.blocked := rfl
@[simp] theorem State.push_fault (s : State) (a : Word) : (s.push a).fault = s.fault := rfl
@[simp] theorem State.push_progEnd (s : State) (a : Word) : (s.push a).progEnd = s.progEnd := rfl
@[simp] theorem State.push_fb (s : State) (a : Word) : (s.push a).fb = s.fb := rfl
@[simp] theorem State.push_rndCount (s : State) (a : Word) : (s.push a).rndCount = s.rndCount := rfl
@[simp] theorem State.push_hostOps (s : State) (a : Word) : (s.push a).hostOps = s.hostOps := rfl
@[simp] theorem State.push_hostPlan (s : State) (a : Word) : (s.push a).hostPlan = s.hostPlan := rfl
@[simp] theorem State.push_loadOpen (s : State) (a : Word) : (s.push a).loadOpen = s.loadOpen := rfl
@[simp] theorem State.push_getV (s : State) (a : Word) (z : Nibble) : (s.push a).getV z = s.getV z := rfl
@[simp] theorem State.push_keyDown (s : State) (a : Word) (j : Nibble) : (s.push a).keyDown j = s.keyDown j := rfl

/-! ### pop -/

@[simp] theorem State.pop_mem (s : State) : s.pop.mem = s.mem := rfl
@[simp] theorem State.pop_v (s : State) : s.pop.v = s.v := rfl
@[simp] theorem State.pop_i (s : State) : s.pop.i = s.i := rfl
@[simp] theorem State.pop_pc (s : State) : s.pop.pc = s.pc := rfl
@[simp] theorem State.pop_stack (s : State) : s.pop.stack = s.stack := rfl
@[simp] theorem State.pop_sp (s : State) : s.pop.sp = Fin.ofNat 17 (s.sp.val - 1) := rfl
@[simp] theorem State.pop_dt (s : State) : s.pop.dt = s.dt := rfl
@[simp] theorem State.pop_st (s : State) : s.pop.st = s.st := rfl
@[simp] theorem State.pop_keys (s : State) : s.pop.keys = s.keys := rfl
@[simp] theorem State.pop_blocked (s : State) : s.pop.blocked = s.blocked := rfl
@[simp] theorem State.pop_fault (s : State) : s.pop.fault = s.fault := rfl
@[simp] theorem State.pop_progEnd (s : State) : s.pop.progEnd = s.progEnd := rfl
@[simp] theorem State.pop_fb (s : State) : s.pop.fb = s.fb := rfl
@[simp] theorem State.pop_rndCount (s : State) : s.pop.rndCount = s.rndCount := rfl
@[simp] theorem State.pop_hostOps (s : State) : s.pop.hostOps = s.hostOps := rfl
@[simp] theorem State.pop_hostPlan (s : State) : s.pop.hostPlan = s.hostPlan := rfl
@[simp] theorem State.pop_loadOpen (s : State) : s.pop.loadOpen = s.loadOpen := rfl
@[simp] theorem State.pop_getV (s : State) (z : Nibble) : s.pop.getV z = s.getV z := rfl
@[simp] theorem State.pop_slot (s : State) (j : Nat) : s.pop.slot j = s.slot j := rfl
@[simp] theorem State.pop_keyDown (s : State) (j : Nibble) : s.pop.keyDown j = s.keyDown j := rfl

/-! ### takeRandom -/

@[simp] theorem State.takeRandom_mem (s : State) : s.takeRandom.mem = s.mem := rfl
@[simp] theorem State.takeRandom_v (s : State) : s.takeRandom.v = s.v := rfl
@[simp] theorem State.takeRandom_i (s : State) : s.takeRandom.i = s.i := rfl
@[simp] theorem State.takeRandom_pc (s : State) : s.takeRandom.pc = s.pc := rfl
@[simp] theorem State.takeRandom_stack (s : State) : s.takeRandom.stack = s.stack := rfl
@[simp] theorem State.takeRandom_sp (s : State) : s.takeRandom.sp = s.sp := rfl
@[simp] theorem State.takeRandom_dt (s : State) : s.takeRandom.dt = s.dt := rfl
@[simp] theorem State.takeRandom_st (s : State) : s.takeRandom.st = s.st := rfl
@[simp] theorem State.takeRandom_keys (s : State) : s.takeRandom.keys = s.keys := rfl
@[simp] theorem State.takeRandom_blocked (s : State) : s.takeRandom.blocked = s.blocked := rfl
@[simp] theorem State.takeRandom_fault (s : State) : s.takeRandom.fault = s.fault := rfl
@[simp] theorem State.takeRandom_progEnd (s : State) : s.takeRandom.progEnd = s.progEnd := rfl
@[simp] theorem State.takeRandom_fb (s : State) : s.takeRandom.fb = s.fb := rfl
@[simp] theorem State.takeRandom_rndCount (s : State) : s.takeRandom.rndCount = s.rndCount + 1 := rfl
@[simp] theorem State.takeRandom_hostOps (s : State) : s.takeRandom.hostOps = s.hostOps := rfl
@[simp] theorem State.takeRandom_hostPlan (s : State) : s.takeRandom.hostPlan = s.hostPlan := rfl
@[simp] theorem State.takeRandom_loadOpen (s : State) : s.takeRandom.loadOpen = s.loadOpen := rfl
@[simp] theorem State.takeRandom_getV (s : State) (z : Nibble) : s.takeRandom.getV z = s.getV z := rfl
@[simp] theorem State.takeRandom_slot (s : State) (j : Nat) : s.takeRandom.slot j = s.slot j := rfl
@[simp] theorem State.takeRandom_keyDown (s : State) (j : Nibble) : s.takeRandom.keyDown j = s.keyDown j := rfl

/-! ### closeLoad -/

@[simp] theorem State.closeLoad_mem (s : State) : s.closeLoad.mem = s.mem := rfl
@[simp] theorem State.closeLoad_v (s : State) : s.closeLoad.v = s.v := rfl
@[simp] theorem State.closeLoad_i (s : State) : s.closeLoad.i = s.i := rfl
@[simp] theorem State.closeLoad_pc (s : State) : s.closeLoad.pc = s.pc := rfl
@[simp] theorem State.closeLoad_stack (s : State) : s.closeLoad.stack = s.stack := rfl
@[simp] theorem State.closeLoad_sp (s : State) : s.closeLoad.sp = s.sp := rfl
@[simp] theorem State.closeLoad_dt (s : State) : s.closeLoad.dt = s.dt := rfl
@[simp] theorem State.closeLoad_st (s : State) : s.closeLoad.st = s.st := rfl
@[simp] theorem State.closeLoad_keys (s : State) : s.closeLoad.keys = s.keys := rfl
@[simp] theorem State.closeLoad_blocked (s : State) : s.closeLoad.blocked = s.blocked := rfl
@[simp] theorem State.closeLoad_fault (s : State) : s.closeLoad.fault = s.fault := rfl
@[simp] theorem State.closeLoad_progEnd (s : State) : s.closeLoad.progEnd = s.progEnd := rfl
@[simp] theorem State.closeLoad_fb (s : State) : s.closeLoad.fb = s.fb := rfl
@[simp] theorem State.closeLoad_rndCount (s : State) : s.closeLoad.rndCount = s.rndCount := rfl
@[simp] theorem State.closeLoad_hostOps (s : State) : s.closeLoad.hostOps = s.hostOps := rfl
@[simp] theorem State.closeLoad_hostPlan (s : State) : s.closeLoad.hostPlan = s.hostPlan := rfl
@[simp] theorem State.closeLoad_loadOpen (s : State) : s.closeLoad.loadOpen = false := rfl
@[simp] theorem State.closeLoad_getV (s : State) (z : Nibble) : s.closeLoad.getV z = s.getV z := rfl
@[simp] theorem State.closeLoad_slot (s : State) (j : Nat) : s.closeLoad.slot j = s.slot j := rfl
@[simp] theorem State.closeLoad_keyDown (s : State) (j : Nibble) : s.closeLoad.keyDown j = s.keyDown j := rfl

/-! ### dequeue -/

@[simp] theorem State.dequeue_mem (s : State) : s.dequeue.mem = s.mem := rfl
@[simp] theorem State.dequeue_v (s : State) : s.dequeue.v = s.v := rfl
@[simp] theorem State.dequeue_i (s : State) : s.dequeue.i = s.i := rfl
@[simp] theorem State.dequeue_pc (s : State) : s.dequeue.pc = s.pc := rfl
@[simp] theorem State.dequeue_stack (s : State) : s.dequeue.stack = s.stack := rfl
@[simp] theorem State.dequeue_sp (s : State) : s.dequeue.sp = s.sp := rfl
@[simp] theorem State.dequeue_dt (s : State) : s.dequeue.dt = s.dt := rfl
@[simp] theorem State.dequeue_st (s : State) : s.dequeue.st = s.st := rfl
@[simp] theorem State.dequeue_keys (s : State) : s.dequeue.keys = s.keys := rfl
@[simp] theorem State.dequeue_blocked (s : State) : s.dequeue.blocked = s.blocked := rfl
@[simp] theorem State.dequeue_fault (s : State) : s.dequeue.fault = s.fault := rfl
@[simp] theorem State.dequeue_progEnd (s : State) : s.dequeue.progEnd = s.progEnd := rfl
@[simp] theorem State.dequeue_fb (s : State) : s.dequeue.fb = s.fb := rfl
@[simp] theorem State.dequeue_rndCount (s : State) : s.dequeue.rndCount = s.rndCount := rfl
@[simp] theorem State.dequeue_hostOps (s : State) : s.dequeue.hostOps = s.hostOps.tail := rfl
@[simp] theorem State.dequeue_hostPlan (s : State) :
    s.dequeue.hostPlan = (if s.hostOps.isEmpty then s.hostPlan.later else s.hostPlan) := rfl
@[simp] theorem State.dequeue_loadOpen (s : State) : s.dequeue.loadOpen = s.loadOpen := rfl
@[simp] theorem State.dequeue_getV (s : State) (z : Nibble) : s.dequeue.getV z = s.getV z := rfl
@[simp] theorem State.dequeue_slot (s : State) (j : Nat) : s.dequeue.slot j = s.slot j := rfl
@[simp] theorem State.dequeue_keyDown (s : State) (j : Nibble) : s.dequeue.keyDown j = s.keyDown j := rfl

/-! ### tick -/

@[simp] theorem State.tick_mem (s : State) : s.tick.mem = s.mem := rfl
@[simp] theorem State.tick_v (s : State) : s.tick.v = s.v := rfl
@[simp] theorem State.tick_i (s : State) : s.tick.i = s.i := rfl
@[simp] theorem State.tick_pc (s : State) : s.tick.pc = s.pc := rfl
@[simp] theorem State.tick_stack (s : State) : s.tick.stack = s.stack := rfl
@[simp] theorem State.tick_sp (s : State) : s.tick.sp = s.sp := rfl
@[simp] theorem State.tick_dt (s : State) : s.tick.dt = countDown s.dt := rfl
@[simp] theorem State.tick_st (s : State) : s.tick.st = countDown s.st := rfl
@[simp] theorem State.tick_keys (s : State) : s.tick.keys = s.keys := rfl
@[simp] theorem State.tick_blocked (s : State) : s.tick.blocked = s.blocked := rfl
@[simp] theorem State.tick_fault (s : State) : s.tick.fault = s.fault := rfl
@[simp] theorem State.tick_progEnd (s : State) : s.tick.progEnd = s.progEnd := rfl
@[simp] theorem State.tick_fb (s : State) : s.tick.fb = s.fb := rfl
@[simp] theorem State.tick_rndCount (s : State) : s.tick.rndCount = s.rndCount := rfl
@[simp] theorem State.tick_hostOps (s : State) : s.tick.hostOps = s.hostOps := rfl
@[simp] theorem State.tick_hostPlan (s : State) : s.tick.hostPlan = s.hostPlan := rfl
@[simp] theorem State.tick_loadOpen (s : State) : s.tick.loadOpen = s.loadOpen := rfl
@[simp] theorem State.tick_getV (s : State) (z : Nibble) : s.tick.getV z = s.getV z := rfl
@[simp] theorem State.tick_slot (s : State) (j : Nat) : s.tick.slot j = s.slot j := rfl
@[simp] theorem State.tick_keyDown (s : State) (j : Nibble) : s.tick.keyDown j = s.keyDown j := rfl

/-! ### setKey -/

@[simp] theorem State.setKey_mem (s : State) (k : Nibble) (p : Bool) : (s.setKey k p).mem = s.mem := rfl
@[simp] theorem State.setKey_v (s : State) (k : Nibble) (p : Bool) : (s.setKey k p).v = s.v := rfl
@[simp] theorem State.setKey_i (s : State) (k : Nibble) (p : Bool) : (s.setKey k p).i = s.i := rfl
@[simp] theorem State.setKey_pc (s : State) (k : Nibble) (p : Bool) : (s.setKey k p).pc = s.pc := rfl
@[simp] theorem State.setKey_stack (s : State) (k : Nibble) (p : Bool) : (s.setKey k p).stack = s.stack := rfl
@[simp] theorem State.setKey_sp (s : State) (k : Nibble) (p : Bool) : (s.setKey k p).sp = s.sp := rfl
@[simp] theorem State.setKey_dt (s : State) (k : Nibble) (p : Bool) : (s.setKey k p).dt = s.dt := rfl
@[simp] theorem State.setKey_st (s : State) (k : Nibble) (p : Bool) : (s.setKey k p).st = s.st := rfl
@[simp] theorem State.setKey_keys (s : State) (k : Nibble) (p : Bool) : (s.setKey k p).keys = s.keys.set k.toNat p k.isLt := rfl
@[simp] theorem State.setKey_blocked (s : State) (k : Nibble) (p : Bool) : (s.setKey k p).blocked = s.blocked := rfl
@[simp] theorem State.setKey_fault (s : State) (k : Nibble) (p : Bool) : (s.setKey k p).fault = s.fault := rfl
@[simp] theorem State.setKey_progEnd (s : State) (k : Nibble) (p : Bool) : (s.setKey k p).progEnd = s.progEnd := rfl
@[simp] theorem State.setKey_fb (s : State) (k : Nibble) (p : Bool) : (s.setKey k p).fb = s.fb := rfl
@[simp] theorem State.setKey_rndCount (s : State) (k : Nibble) (p : Bool) : (s.setKey k p).rndCount = s.rndCount := rfl
@[simp] theorem State.setKey_hostOps (s : State) (k : Nibble) (p : Bool) : (s.setKey k p).hostOps = s.hostOps := rfl
@[simp] theorem State.setKey_hostPlan (s : State) (k : Nibble) (p : Bool) : (s.setKey k p).hostPlan = s.hostPlan := rfl
@[simp] theorem State.setKey_loadOpen (s : State) (k : Nibble) (p : Bool) : (s.setKey k p).loadOpen = s.loadOpen := rfl
@[simp] theorem State.setKey_getV (s : State) (k : Nibble) (p : Bool) (z : Nibble) : (s.setKey k p).getV z = s.getV z := rfl
@[simp] theorem State.setKey_slot (s : State) (k : Nibble) (p : Bool) (j : Nat) : (s.setKey k p).slot j = s.slot j := rfl

/-! ### surfaceReset -/

@[simp] theorem State.surfaceReset_mem (s : State) : s.surfaceReset.mem = s.mem := rfl
@[simp] theorem State.surfaceReset_v (s : State) : s.surfaceReset.v = s.v := rfl
@[simp] theorem State.surfaceReset_i (s : State) : s.surfaceReset.i = s.i := rfl
@[simp] theorem State.surfaceReset_pc (s : State) : s.surfaceReset.pc = s.pc := rfl
@[simp] theorem State.surfaceReset_stack (s : State) : s.surfaceReset.stack = s.stack := rfl
@[simp] theorem State.surfaceReset_sp (s : State) : s.surfaceReset.sp = s.sp := rfl
@[simp] theorem State.surfaceReset_dt (s : State) : s.surfaceReset.dt = s.dt := rfl
@[simp] theorem State.surfaceReset_st (s : State) : s.surfaceReset.st = s.st := rfl
@[simp] theorem State.surfaceReset_keys (s : State) : s.surfaceReset.keys = s.keys := rfl
@[simp] theorem State.surfaceReset_blocked (s : State) : s.surfaceReset.blocked = s.blocked := rfl
@[simp] theorem State.surfaceReset_fault (s : State) : s.surfaceReset.fault = s.fault := rfl
@[simp] theorem State.surfaceReset_progEnd (s : State) : s.surfaceReset.progEnd = s.progEnd := rfl
@[simp] theorem State.surfaceReset_fb (s : State) : s.surfaceReset.fb = [] := rfl
@[simp] theorem State.surfaceReset_rndCount (s : State) : s.surfaceReset.rndCount = s.rndCount := rfl
@[simp] theorem State.surfaceReset_hostOps (s : State) : s.surfaceReset.hostOps = s.hostOps := rfl
@[simp] theorem State.surfaceReset_hostPlan (s : State) : s.surfaceReset.hostPlan = s.hostPlan := rfl
@[simp] theorem State.surfaceReset_loadOpen (s : State) : s.surfaceReset.loadOpen = s.loadOpen := rfl
@[simp] theorem State.surfaceReset_getV (s : State) (z : Nibble) : s.surfaceReset.getV z = s.getV z := rfl
@[simp] theorem State.surfaceReset_slot (s : State) (j : Nat) : s.surfaceReset.slot j = s.slot j := rfl
@[simp] theorem State.surfaceReset_keyDown (s : State) (j : Nibble) : s.surfaceReset.keyDown j = s.keyDown j := rfl

/-! ### loaded -/

@[simp] theorem State.loaded_mem (s : State) (bytes : List Byte) : (s.loaded bytes).mem = s.mem.writeBlock progBase bytes := rfl
@[simp] theorem State.loaded_v (s : State) (bytes : List Byte) : (s.loaded bytes).v = s.v := rfl
@[simp] theorem State.loaded_i (s : State) (bytes : List Byte) : (s.loaded bytes).i = s.i := rfl
@[simp] theorem State.loaded_pc (s : State) (bytes : List Byte) : (s.loaded bytes).pc = s.pc := rfl
@[simp] theorem State.loaded_stack (s : State) (bytes : List Byte) : (s.loaded bytes).stack = s.stack := rfl
@[simp] theorem State.loaded_sp (s : State) (bytes : List Byte) : (s.loaded bytes).sp = s.sp := rfl
@[simp] theorem State.loaded_dt (s : State) (bytes : List Byte) : (s.loaded bytes).dt = s.dt := rfl
@[simp] theorem State.loaded_st (s : State) (bytes : List Byte) : (s.loaded bytes).st = s.st := rfl
@[simp] theorem State.loaded_keys (s : State) (bytes : List Byte) : (s.loaded bytes).keys = s.keys := rfl
@[simp] theorem State.loaded_blocked (s : State) (bytes : List Byte) : (s.loaded bytes).blocked = s.blocked := rfl
@[simp] theorem State.loaded_fault (s : State) (bytes : List Byte) : (s.loaded bytes).fault = s.fault := rfl
@[simp] theorem State.loaded_progEnd (s : State) (bytes : List Byte) : (s.loaded bytes).progEnd = BitVec.ofNat 13 (progBase + bytes.length) := rfl
@[simp] theorem State.loaded_fb (s : State) (bytes : List Byte) : (s.loaded bytes).fb = s.fb := rfl
@[simp] theorem State.loaded_rndCount (s : State) (bytes : List Byte) : (s.loaded bytes).rndCount = s.rndCount := rfl
@[simp] theorem State.loaded_hostOps (s : State) (bytes : List Byte) : (s.loaded bytes).hostOps = s.hostOps := rfl
@[simp] theorem State.loaded_hostPlan (s : State) (bytes : List Byte) : (s.loaded bytes).hostPlan = s.hostPlan := rfl
@[simp] theorem State.loaded_loadOpen (s : State) (bytes : List Byte) : (s.loaded bytes).loadOpen = false := rfl
@[simp] theorem State.loaded_getV (s : State) (bytes : List Byte) (z : Nibble) : (s.loaded bytes).getV z = s.getV z := rfl
@[simp] theorem State.loaded_slot (s : State) (bytes : List Byte) (j : Nat) : (s.loaded bytes).slot j = s.slot j := rfl
@[simp] theorem State.loaded_keyDown (s : State) (bytes : List Byte) (j : Nibble) : (s.loaded bytes).keyDown j = s.keyDown j := rfl

end Sys2Proof.Machine
end

