-- ==== Sys2Proof/Laws/Surface.lean ====
section
/-! SUPPORT. The Display Surface: what one toggle does to every pixel, and that drawing keeps the canonical form. -/

namespace Sys2Proof.Machine

theorem pixelBefore_iff {p q : Pixel} : pixelBefore p q = true ↔ p.1 < q.1 ∨ (p.1 = q.1 ∧ p.2 < q.2) := by
  simp [pixelBefore]

theorem pixelBefore_irrefl (p : Pixel) : ¬ pixelBefore p p = true := by
  simp [pixelBefore_iff]

theorem pixelBefore_trans {p q r : Pixel} (hpq : pixelBefore p q = true) (hqr : pixelBefore q r = true) :
    pixelBefore p r = true := by
  rw [pixelBefore_iff] at *
  omega

theorem pixelBefore_or {p q : Pixel} (hne : p ≠ q) (h : ¬ pixelBefore p q = true) : pixelBefore q p = true := by
  obtain ⟨a, b⟩ := p
  obtain ⟨c, d⟩ := q
  rw [pixelBefore_iff] at *
  simp only [ne_eq, Prod.mk.injEq] at hne
  omega

/-- The rising order, as a pairwise fact about the list. -/
theorem Surface.sorted_iff {fb : Surface} :
    fb.sorted = true ↔ fb.Pairwise (fun p q => pixelBefore p q = true) := by
  induction fb with
  | nil => simp [Surface.sorted]
  | cons p rest ih =>
    cases rest with
    | nil => simp [Surface.sorted]
    | cons q rest =>
      rw [Surface.sorted, Bool.and_eq_true, ih, List.pairwise_cons (a := p)]
      constructor
      · rintro ⟨hpq, hrest⟩
        refine ⟨fun r hr => ?_, hrest⟩
        rcases List.mem_cons.mp hr with rfl | hr
        · exact hpq
        · exact pixelBefore_trans hpq ((List.pairwise_cons.mp hrest).1 r hr)
      · rintro ⟨hp, hrest⟩
        exact ⟨hp q List.mem_cons_self, hrest⟩

/-- A pixel is in the toggled list exactly if it was there before, but for the toggled pixel, which changes. -/
theorem Surface.mem_toggle {fb : Surface} (h : fb.sorted = true) (p r : Pixel) :
    r ∈ fb.toggle p ↔ (if r = p then p ∉ fb else r ∈ fb) := by
  rw [Surface.sorted_iff] at h
  induction fb with
  | nil => by_cases hr : r = p <;> simp [Surface.toggle, hr]
  | cons q rest ih =>
    obtain ⟨hq, hrest⟩ := List.pairwise_cons.mp h
    simp only [Surface.toggle]
    split
    · next hpq =>
      subst hpq
      have hnot : p ∉ rest := fun hp => pixelBefore_irrefl p (hq p hp)
      by_cases hr : r = p
      · subst hr; simp [hnot]
      · simp [hr]
    · next hpq =>
      split
      · next hlt =>
        have hnot : p ∉ rest := fun hp => pixelBefore_irrefl p (pixelBefore_trans hlt (hq p hp))
        by_cases hr : r = p
        · subst hr; simp [hpq, hnot]
        · simp [hr]
      · by_cases hr : r = p
        · subst hr
          simp [ih hrest, hpq]
        · simp [ih hrest, hr]

/-- A toggle keeps the rising order. -/
theorem Surface.sorted_toggle {fb : Surface} (h : fb.sorted = true) (p : Pixel) : (fb.toggle p).sorted = true := by
  rw [Surface.sorted_iff] at *
  induction fb with
  | nil => simp [Surface.toggle]
  | cons q rest ih =>
    obtain ⟨hq, hrest⟩ := List.pairwise_cons.mp h
    simp only [Surface.toggle]
    split
    · exact hrest
    · next hpq =>
      split
      · next hlt =>
        refine List.pairwise_cons.mpr ⟨fun r hr => ?_, h⟩
        rcases List.mem_cons.mp hr with rfl | hr
        · exact hlt
        · exact pixelBefore_trans hlt (hq r hr)
      · next hlt =>
        refine List.pairwise_cons.mpr ⟨fun r hr => ?_, ih hrest⟩
        rw [Surface.mem_toggle (Surface.sorted_iff.mpr hrest)] at hr
        split at hr
        · next hrp => subst hrp; exact pixelBefore_or hpq hlt
        · exact hq r hr

/-- One toggle changes its own pixel and no other. -/
theorem Surface.isLit_toggle {fb : Surface} (h : fb.sorted = true) (p r : Pixel) :
    (fb.toggle p).isLit r = if r = p then !fb.isLit p else fb.isLit r := by
  simp only [Surface.isLit, Surface.mem_toggle h]
  split <;> simp

/-- Toggling a list of pixels keeps the rising order. -/
theorem Surface.sorted_togglePixels {fb : Surface} (h : fb.sorted = true) (ps : List Pixel) :
    (Surface.togglePixels ps fb).1.sorted = true := by
  induction ps generalizing fb with
  | nil => exact h
  | cons p ps ih => exact ih (Surface.sorted_toggle h p)

/-- A pixel that is on after the toggles was on before or is one of the toggled ones. -/
theorem Surface.mem_togglePixels {fb : Surface} (h : fb.sorted = true) {ps : List Pixel} {r : Pixel}
    (hr : r ∈ (Surface.togglePixels ps fb).1) : r ∈ fb ∨ r ∈ ps := by
  induction ps generalizing fb with
  | nil => exact Or.inl hr
  | cons p ps ih =>
    rcases ih (Surface.sorted_toggle h p) hr with hr | hr
    · rw [Surface.mem_toggle h] at hr
      split at hr
      · next hrp => exact Or.inr (hrp ▸ List.mem_cons_self)
      · exact Or.inl hr
    · exact Or.inr (List.mem_cons_of_mem p hr)

/-- Every pixel of a sprite lies inside a surface of at least one row and one column. -/
theorem spritePixels_inside {w h x y : Nat} {rows : List Byte} (hw : 0 < w) (hh : 0 < h) {p : Pixel}
    (hp : p ∈ spritePixels w h x y rows) : p.1 < h ∧ p.2 < w := by
  induction rows generalizing y with
  | nil => simp [spritePixels] at hp
  | cons row rows ih =>
    rw [spritePixels, List.mem_append] at hp
    rcases hp with hp | hp
    · rw [rowPixels, List.mem_map] at hp
      obtain ⟨c, _, rfl⟩ := hp
      exact ⟨Nat.mod_lt _ hh, Nat.mod_lt _ hw⟩
    · exact ih hp

/-- Drawing a sprite keeps the canonical form. -/
theorem Surface.wf_drawSprite {w h : Nat} (hw : 0 < w) (hh : 0 < h) (x y : Byte) (rows : List Byte) {fb : Surface}
    (hwf : fb.wf w h = true) : (Surface.drawSprite w h x y rows fb).1.wf w h = true := by
  rw [Surface.wf, Bool.and_eq_true] at hwf ⊢
  refine ⟨Surface.sorted_togglePixels hwf.1 _, List.all_eq_true.mpr fun p hp => ?_⟩
  rw [← Bool.decide_and, decide_eq_true_eq]
  rcases Surface.mem_togglePixels hwf.1 hp with hp | hp
  · simpa using List.all_eq_true.mp hwf.2 p hp
  · exact spritePixels_inside hw hh hp

end Sys2Proof.Machine
end

