-- ==== Sys2Proof/Laws/Ops.lean ====
section
/-! SUPPORT. One lemma per shared operation, saying everything it can do; proofs about instructions cite these and do not
unfold the operations. -/

namespace Sys2Proof.Machine

/-! ### Registers -/

@[simp] theorem State.getV_setV_same (s : State) (x : Nibble) (b : Byte) : (s.setV x b).getV x = b := by
  simp [State.getV, State.setV]

@[simp] theorem State.getV_setV_other {s : State} {x z : Nibble} {b : Byte} (h : z ≠ x) :
    (s.setV x b).getV z = s.getV z := by
  have : x.toNat ≠ z.toNat := fun hx => h (BitVec.eq_of_toNat_eq hx.symm)
  simp [State.getV, State.setV, this]

/-- `V[z]` after `V[x] <- b`. -/
theorem State.getV_setV (s : State) (x z : Nibble) (b : Byte) :
    (s.setV x b).getV z = if z = x then b else s.getV z := by
  by_cases h : z = x
  · subst h; simp
  · simp [h]

/-- What `V[k] <- b0, V[k+1] <- b1, ...` leaves in `V[z]`, for a block that ends at or below V15. -/
theorem State.getV_setRegs (s : State) (k : Nat) (bytes : List Byte) (z : Nibble) (hk : k + bytes.length ≤ 16) :
    (s.setRegs k bytes).getV z = if k ≤ z.toNat then (bytes[z.toNat - k]?).getD (s.getV z) else s.getV z := by
  induction bytes generalizing s k with
  | nil => simp [State.setRegs]
  | cons b bs ih =>
    simp only [List.length_cons] at hk
    rw [State.setRegs, ih _ _ (by omega), State.getV_setV]
    have hz : z = BitVec.ofNat 4 k ↔ z.toNat = k := by
      constructor
      · rintro rfl; simp; omega
      · intro h; apply BitVec.eq_of_toNat_eq; simp; omega
    rcases Nat.lt_trichotomy z.toNat k with h | h | h
    · simp [hz, show ¬ k + 1 ≤ z.toNat by omega, show ¬ k ≤ z.toNat by omega, show z.toNat ≠ k by omega]
    · simp [hz, h]
    · have hk1 : z.toNat - k = (z.toNat - (k + 1)) + 1 := by omega
      rw [hk1, List.getElem?_cons_succ]
      simp [hz, show k + 1 ≤ z.toNat by omega, show k ≤ z.toNat by omega, show z.toNat ≠ k by omega]

/-- The block of registers writes V alone. -/
theorem State.setRegs_frame (s : State) (k : Nat) (bytes : List Byte) :
    s.setRegs k bytes = { s with v := (s.setRegs k bytes).v } := by
  induction bytes generalizing s k with
  | nil => rfl
  | cons b bs ih => rw [State.setRegs, ih]; rfl

/-! The fields a block of registers, or a flag and a result, leaves alone. -/

@[simp] theorem State.setRegs_mem (s : State) (k : Nat) (bytes : List Byte) : (s.setRegs k bytes).mem = s.mem := by
  rw [State.setRegs_frame]
@[simp] theorem State.setRegs_i (s : State) (k : Nat) (bytes : List Byte) : (s.setRegs k bytes).i = s.i := by
  rw [State.setRegs_frame]
@[simp] theorem State.setRegs_pc (s : State) (k : Nat) (bytes : List Byte) : (s.setRegs k bytes).pc = s.pc := by
  rw [State.setRegs_frame]
@[simp] theorem State.setRegs_stack (s : State) (k : Nat) (bytes : List Byte) : (s.setRegs k bytes).stack = s.stack := by
  rw [State.setRegs_frame]
@[simp] theorem State.setRegs_sp (s : State) (k : Nat) (bytes : List Byte) : (s.setRegs k bytes).sp = s.sp := by
  rw [State.setRegs_frame]
@[simp] theorem State.setRegs_dt (s : State) (k : Nat) (bytes : List Byte) : (s.setRegs k bytes).dt = s.dt := by
  rw [State.setRegs_frame]
@[simp] theorem State.setRegs_st (s : State) (k : Nat) (bytes : List Byte) : (s.setRegs k bytes).st = s.st := by
  rw [State.setRegs_frame]
@[simp] theorem State.setRegs_keys (s : State) (k : Nat) (bytes : List Byte) : (s.setRegs k bytes).keys = s.keys := by
  rw [State.setRegs_frame]
@[simp] theorem State.setRegs_blocked (s : State) (k : Nat) (bytes : List Byte) : (s.setRegs k bytes).blocked = s.blocked := by
  rw [State.setRegs_frame]
@[simp] theorem State.setRegs_fault (s : State) (k : Nat) (bytes : List Byte) : (s.setRegs k bytes).fault = s.fault := by
  rw [State.setRegs_frame]
@[simp] theorem State.setRegs_progEnd (s : State) (k : Nat) (bytes : List Byte) : (s.setRegs k bytes).progEnd = s.progEnd := by
  rw [State.setRegs_frame]
@[simp] theorem State.setRegs_fb (s : State) (k : Nat) (bytes : List Byte) : (s.setRegs k bytes).fb = s.fb := by
  rw [State.setRegs_frame]
@[simp] theorem State.setRegs_rndCount (s : State) (k : Nat) (bytes : List Byte) : (s.setRegs k bytes).rndCount = s.rndCount := by
  rw [State.setRegs_frame]
@[simp] theorem State.setRegs_hostOps (s : State) (k : Nat) (bytes : List Byte) : (s.setRegs k bytes).hostOps = s.hostOps := by
  rw [State.setRegs_frame]
@[simp] theorem State.setRegs_hostPlan (s : State) (k : Nat) (bytes : List Byte) : (s.setRegs k bytes).hostPlan = s.hostPlan := by
  rw [State.setRegs_frame]
@[simp] theorem State.setRegs_loadOpen (s : State) (k : Nat) (bytes : List Byte) : (s.setRegs k bytes).loadOpen = s.loadOpen := by
  rw [State.setRegs_frame]

@[simp] theorem State.setFlagThen_mem (s : State) (flag result : Byte) (x : Nibble) :
    (s.setFlagThen flag x result).mem = s.mem := rfl
@[simp] theorem State.setFlagThen_i (s : State) (flag result : Byte) (x : Nibble) :
    (s.setFlagThen flag x result).i = s.i := rfl
@[simp] theorem State.setFlagThen_pc (s : State) (flag result : Byte) (x : Nibble) :
    (s.setFlagThen flag x result).pc = s.pc := rfl
@[simp] theorem State.setFlagThen_stack (s : State) (flag result : Byte) (x : Nibble) :
    (s.setFlagThen flag x result).stack = s.stack := rfl
@[simp] theorem State.setFlagThen_sp (s : State) (flag result : Byte) (x : Nibble) :
    (s.setFlagThen flag x result).sp = s.sp := rfl
@[simp] theorem State.setFlagThen_dt (s : State) (flag result : Byte) (x : Nibble) :
    (s.setFlagThen flag x result).dt = s.dt := rfl
@[simp] theorem State.setFlagThen_st (s : State) (flag result : Byte) (x : Nibble) :
    (s.setFlagThen flag x result).st = s.st := rfl
@[simp] theorem State.setFlagThen_keys (s : State) (flag result : Byte) (x : Nibble) :
    (s.setFlagThen flag x result).keys = s.keys := rfl
@[simp] theorem State.setFlagThen_blocked (s : State) (flag result : Byte) (x : Nibble) :
    (s.setFlagThen flag x result).blocked = s.blocked := rfl
@[simp] theorem State.setFlagThen_fault (s : State) (flag result : Byte) (x : Nibble) :
    (s.setFlagThen flag x result).fault = s.fault := rfl
@[simp] theorem State.setFlagThen_progEnd (s : State) (flag result : Byte) (x : Nibble) :
    (s.setFlagThen flag x result).progEnd = s.progEnd := rfl
@[simp] theorem State.setFlagThen_fb (s : State) (flag result : Byte) (x : Nibble) :
    (s.setFlagThen flag x result).fb = s.fb := rfl
@[simp] theorem State.setFlagThen_rndCount (s : State) (flag result : Byte) (x : Nibble) :
    (s.setFlagThen flag x result).rndCount = s.rndCount := rfl
@[simp] theorem State.setFlagThen_hostOps (s : State) (flag result : Byte) (x : Nibble) :
    (s.setFlagThen flag x result).hostOps = s.hostOps := rfl
@[simp] theorem State.setFlagThen_hostPlan (s : State) (flag result : Byte) (x : Nibble) :
    (s.setFlagThen flag x result).hostPlan = s.hostPlan := rfl
@[simp] theorem State.setFlagThen_loadOpen (s : State) (flag result : Byte) (x : Nibble) :
    (s.setFlagThen flag x result).loadOpen = s.loadOpen := rfl

/-- VF after a flag and a result (R170): the result where x is VF, else the flag. -/
theorem State.getV_setFlagThen (s : State) (flag result : Byte) (x z : Nibble) :
    (s.setFlagThen flag x result).getV z = if z = x then result else if z = vf then flag else s.getV z := by
  simp only [State.setFlagThen, State.getV_setV]

theorem State.setFlagThen_frame (s : State) (flag result : Byte) (x : Nibble) :
    s.setFlagThen flag x result = { s with v := (s.setFlagThen flag x result).v } := rfl

/-! ### How a cycle ends -/

theorem goTo_next {target : Word} {s t : State} (h : goTo target s = .next t) : t = { s with pc := target } := by
  injection h with h; exact h.symm

theorem complete_next {s t : State} (h : complete s = .next t) : t = { s with pc := s.pc + 2#16 } := goTo_next h

/-- A skip ends two or four bytes on (R150). -/
theorem skipIf_next {c : Bool} {s t : State} (h : skipIf c s = .next t) :
    t = { s with pc := if c then s.pc + 4#16 else s.pc + 2#16 } := by
  rw [goTo_next h]
  cases c
  · rfl
  · simp [State.npc, BitVec.add_assoc]

theorem skipIf_eq (c : Bool) (s : State) :
    skipIf c s = .next { s with pc := if c then s.pc + 4#16 else s.pc + 2#16 } := by
  cases c
  · rfl
  · simp [skipIf, goTo, State.setPc, State.npc, BitVec.add_assoc]

/-- Taking a fault writes the record and nothing else (R272). -/
theorem raise_next {c : Fault} {w : Option Word} {s t : State} (h : raise c w s = .next t) :
    t = { s with fault := some { cause := c, pc := s.pc, opcode := w } } := by
  injection h with h; exact h.symm

/-- Either the range passes 4095 and the fault is taken, or the access goes on (R73). -/
theorem checkRange_cases (start count : Nat) (i : Instr) (s : State) (ok : Result) :
    (1 ≤ count ∧ 4096 < start + count ∧ checkRange start count i s ok = raise .outOfBounds (some (encode i)) s) ∨
    ((count = 0 ∨ start + count ≤ 4096) ∧ checkRange start count i s ok = ok) := by
  unfold checkRange memSize
  split
  · left; refine ⟨by omega, by omega, rfl⟩
  · right; refine ⟨by omega, rfl⟩

theorem checkRange_ok {start count : Nat} {i : Instr} {s : State} {ok : Result}
    (h : count = 0 ∨ start + count ≤ 4096) : checkRange start count i s ok = ok := by
  rcases checkRange_cases start count i s ok with h' | h'
  · omega
  · exact h'.2

theorem checkRange_fault {start count : Nat} {i : Instr} {s : State} {ok : Result} (h1 : 1 ≤ count)
    (h : 4096 < start + count) : checkRange start count i s ok = raise .outOfBounds (some (encode i)) s := by
  rcases checkRange_cases start count i s ok with h' | h'
  · exact h'.2.2
  · omega

/-! ### The call stack -/

/-- The depth after a push on a stack that is not full. -/
theorem State.push_sp_val {s : State} (a : Word) (h : s.sp.val < 16) : (s.push a).sp.val = s.sp.val + 1 := by
  simp [Fin.ofNat]; omega

/-- The depth after a pop of a stack that is not empty. -/
theorem State.pop_sp_val (s : State) : s.pop.sp.val = s.sp.val - 1 := by
  simp [Fin.ofNat]; omega

/-- A push writes one slot, the one at the old depth. -/
theorem State.slot_push {s : State} (a : Word) (j : Nat) (h : s.sp.val < 16) :
    (s.push a).slot j = if j = s.sp.val then a else s.slot j := by
  by_cases hj : j = s.sp.val
  · subst hj; simp [State.slot, State.push, h]
  · simp [State.slot, State.push, hj, Ne.symm hj]

theorem State.push_frame (s : State) (a : Word) :
    s.push a = { s with stack := (s.push a).stack, sp := (s.push a).sp } := rfl

theorem State.pop_frame (s : State) : s.pop = { s with sp := s.pop.sp } := rfl

/-! ### Keys -/

/-- Every key code is in the scan. -/
theorem mem_keyCodes (k : Nibble) : k ∈ keyCodes := by
  revert k; decide

/-- No key is found exactly if none is down. -/
theorem State.firstKey_eq_none {s : State} : s.firstKey = none ↔ ∀ k, s.keyDown k = false := by
  simp only [State.firstKey, List.find?_eq_none, Bool.not_eq_true]
  exact ⟨fun h k => h k (mem_keyCodes k), fun h k _ => h k⟩

end Sys2Proof.Machine
end

