-- ==== Sys2Proof/Laws/PerInstr.lean ====
section
/-! SUPPORT. Facts stated once per instruction. Family OpcodeRow: an instruction's word matches its own row of the opcode
map (rule R104). -/

namespace Sys2Proof.Laws.OpcodeRow

/-- The word of `i` under the mask of its row is the row's match (R104). -/
def Statement (i : Instr) : Prop :=
  ∀ mask value, opcodeRows[opcodeRowOf i]? = some (mask, value) → encode i &&& mask = value

theorem cls : Statement (.cls) := by
  rintro _ _ h; cases h; decide
theorem ret : Statement (.ret) := by
  rintro _ _ h; cases h; decide
theorem sys (nnn : Addr12) : Statement (.sys nnn) := by
  rintro _ _ h; cases h; exact wordNNN_mask_F000 _ _
theorem jp (nnn : Addr12) : Statement (.jp nnn) := by
  rintro _ _ h; cases h; exact wordNNN_mask_F000 _ _
theorem call (nnn : Addr12) : Statement (.call nnn) := by
  rintro _ _ h; cases h; exact wordNNN_mask_F000 _ _
theorem seImm (x : Nibble) (nn : Byte) : Statement (.seImm x nn) := by
  rintro _ _ h; cases h; exact wordXNN_mask_F000 _ _ _
theorem sneImm (x : Nibble) (nn : Byte) : Statement (.sneImm x nn) := by
  rintro _ _ h; cases h; exact wordXNN_mask_F000 _ _ _
theorem seReg (x : Nibble) (y : Nibble) : Statement (.seReg x y) := by
  rintro _ _ h; cases h; exact word4_mask_F00F _ _ _ _
theorem ldImm (x : Nibble) (nn : Byte) : Statement (.ldImm x nn) := by
  rintro _ _ h; cases h; exact wordXNN_mask_F000 _ _ _
theorem addImm (x : Nibble) (nn : Byte) : Statement (.addImm x nn) := by
  rintro _ _ h; cases h; exact wordXNN_mask_F000 _ _ _
theorem ldReg (x : Nibble) (y : Nibble) : Statement (.ldReg x y) := by
  rintro _ _ h; cases h; exact word4_mask_F00F _ _ _ _
theorem orReg (x : Nibble) (y : Nibble) : Statement (.orReg x y) := by
  rintro _ _ h; cases h; exact word4_mask_F00F _ _ _ _
theorem andReg (x : Nibble) (y : Nibble) : Statement (.andReg x y) := by
  rintro _ _ h; cases h; exact word4_mask_F00F _ _ _ _
theorem xorReg (x : Nibble) (y : Nibble) : Statement (.xorReg x y) := by
  rintro _ _ h; cases h; exact word4_mask_F00F _ _ _ _
theorem addReg (x : Nibble) (y : Nibble) : Statement (.addReg x y) := by
  rintro _ _ h; cases h; exact word4_mask_F00F _ _ _ _
theorem subReg (x : Nibble) (y : Nibble) : Statement (.subReg x y) := by
  rintro _ _ h; cases h; exact word4_mask_F00F _ _ _ _
theorem shr (x : Nibble) (y : Nibble) : Statement (.shr x y) := by
  rintro _ _ h; cases h; exact word4_mask_F00F _ _ _ _
theorem subnReg (x : Nibble) (y : Nibble) : Statement (.subnReg x y) := by
  rintro _ _ h; cases h; exact word4_mask_F00F _ _ _ _
theorem shl (x : Nibble) (y : Nibble) : Statement (.shl x y) := by
  rintro _ _ h; cases h; exact word4_mask_F00F _ _ _ _
theorem sneReg (x : Nibble) (y : Nibble) : Statement (.sneReg x y) := by
  rintro _ _ h; cases h; exact word4_mask_F00F _ _ _ _
theorem ldI (nnn : Addr12) : Statement (.ldI nnn) := by
  rintro _ _ h; cases h; exact wordNNN_mask_F000 _ _
theorem jpV0 (nnn : Addr12) : Statement (.jpV0 nnn) := by
  rintro _ _ h; cases h; exact wordNNN_mask_F000 _ _
theorem rnd (x : Nibble) (nn : Byte) : Statement (.rnd x nn) := by
  rintro _ _ h; cases h; exact wordXNN_mask_F000 _ _ _
theorem drw (x : Nibble) (y : Nibble) (n : Nibble) : Statement (.drw x y n) := by
  rintro _ _ h; cases h; exact word4_mask_F000 _ _ _ _
theorem skp (x : Nibble) : Statement (.skp x) := by
  rintro _ _ h; cases h; exact wordXNN_mask_F0FF _ _ _
theorem sknp (x : Nibble) : Statement (.sknp x) := by
  rintro _ _ h; cases h; exact wordXNN_mask_F0FF _ _ _
theorem ldVxDt (x : Nibble) : Statement (.ldVxDt x) := by
  rintro _ _ h; cases h; exact wordXNN_mask_F0FF _ _ _
theorem ldVxK (x : Nibble) : Statement (.ldVxK x) := by
  rintro _ _ h; cases h; exact wordXNN_mask_F0FF _ _ _
theorem ldDtVx (x : Nibble) : Statement (.ldDtVx x) := by
  rintro _ _ h; cases h; exact wordXNN_mask_F0FF _ _ _
theorem ldStVx (x : Nibble) : Statement (.ldStVx x) := by
  rintro _ _ h; cases h; exact wordXNN_mask_F0FF _ _ _
theorem addIVx (x : Nibble) : Statement (.addIVx x) := by
  rintro _ _ h; cases h; exact wordXNN_mask_F0FF _ _ _
theorem ldFVx (x : Nibble) : Statement (.ldFVx x) := by
  rintro _ _ h; cases h; exact wordXNN_mask_F0FF _ _ _
theorem ldBVx (x : Nibble) : Statement (.ldBVx x) := by
  rintro _ _ h; cases h; exact wordXNN_mask_F0FF _ _ _
theorem ldMemVx (x : Nibble) : Statement (.ldMemVx x) := by
  rintro _ _ h; cases h; exact wordXNN_mask_F0FF _ _ _
theorem ldVxMem (x : Nibble) : Statement (.ldVxMem x) := by
  rintro _ _ h; cases h; exact wordXNN_mask_F0FF _ _ _

end Sys2Proof.Laws.OpcodeRow
end

