-- ==== Sys2Proof/Laws/Step.lean ====
section
/-! SUPPORT. What a cycle, a host operation and a step can do, said once; and that placing a word keeps the canonical form
and is what the next step fetches. -/

namespace Sys2Proof.Machine

/-! ### The cycle -/

/-- What the front of a cycle found, with the conditions of R106 under which it finds it. -/
theorem fetch_cases (s : State) :
    (∃ f, s.fault = some f ∧ fetch s = .faulted f) ∨
    (s.fault = none ∧ 4095 ≤ s.pc.toNat ∧ fetch s = .outOfBounds) ∨
    (s.fault = none ∧ s.pc.toNat < 4095 ∧ s.progEnd.toNat ≤ s.pc.toNat ∧ fetch s = .terminated) ∨
    (s.fault = none ∧ s.pc.toNat < 4095 ∧ s.pc.toNat < s.progEnd.toNat ∧ fetch s = fetchInstr s) := by
  cases hf : s.fault with
  | some f => exact Or.inl ⟨f, rfl, by simp [fetch, hf]⟩
  | none =>
    by_cases h1 : memSize - 1 < s.pc.toNat + 1
    · exact Or.inr (Or.inl ⟨rfl, by simp only [memSize] at h1; omega, by simp [fetch, hf, h1]⟩)
    · by_cases h2 : s.progEnd.toNat ≤ s.pc.toNat
      · exact Or.inr (Or.inr (Or.inl ⟨rfl, by simp only [memSize] at h1; omega, h2, by simp [fetch, hf, h1, h2]⟩))
      · exact Or.inr (Or.inr (Or.inr ⟨rfl, by simp only [memSize] at h1; omega, by omega, by simp [fetch, hf, h1, h2]⟩))

/-- The word at the pc either selects an instruction or is illegal (R106 step 8). -/
theorem fetchInstr_cases (s : State) :
    (∃ i, decodeWord (s.mem.read16 s.pc.toNat) = some i ∧ fetchInstr s = .instr i) ∨
    (decodeWord (s.mem.read16 s.pc.toNat) = none ∧ fetchInstr s = .unsupported (s.mem.read16 s.pc.toNat)) := by
  unfold fetchInstr
  cases h : decodeWord (s.mem.read16 s.pc.toNat) with
  | some i => exact Or.inl ⟨i, rfl, rfl⟩
  | none => exact Or.inr ⟨rfl, rfl⟩

/-- Everything a cycle can do (R106, R275). -/
theorem cycle_cases (s : State) :
    ((∃ f, s.fault = some f) ∧ cycle s = .next s.closeLoad) ∨
    (s.fault = none ∧ 4095 ≤ s.pc.toNat ∧ cycle s = raise .outOfBounds none s.closeLoad) ∨
    (s.fault = none ∧ s.pc.toNat < 4095 ∧ s.progEnd.toNat ≤ s.pc.toNat ∧ cycle s = .next s.closeLoad) ∨
    (s.fault = none ∧ s.pc.toNat < 4095 ∧ s.pc.toNat < s.progEnd.toNat ∧
      ((∃ i, decodeWord (s.mem.read16 s.pc.toNat) = some i ∧ cycle s = exec i s.closeLoad) ∨
       (decodeWord (s.mem.read16 s.pc.toNat) = none ∧
         cycle s = raise .unsupportedInstruction (some (s.mem.read16 s.pc.toNat)) s.closeLoad))) := by
  rcases fetch_cases s with ⟨f, h1, h2⟩ | ⟨h1, h2, h3⟩ | ⟨h1, h2, h3, h4⟩ | ⟨h1, h2, h3, h4⟩
  · exact Or.inl ⟨⟨f, h1⟩, by simp [cycle, h2, runFetched]⟩
  · exact Or.inr (Or.inl ⟨h1, h2, by simp [cycle, h3, runFetched]⟩)
  · exact Or.inr (Or.inr (Or.inl ⟨h1, h2, h3, by simp [cycle, h4, runFetched]⟩))
  · refine Or.inr (Or.inr (Or.inr ⟨h1, h2, h3, ?_⟩))
    rcases fetchInstr_cases s with ⟨i, h5, h6⟩ | ⟨h5, h6⟩
    · exact Or.inl ⟨i, h5, by simp [cycle, h4, h6, runFetched]⟩
    · exact Or.inr ⟨h5, by simp [cycle, h4, h6, runFetched]⟩

/-! ### Loading -/

/-- `Load` either writes the program or is refused (R312). -/
theorem hostLoad_cases (bytes : List Byte) (s : State) :
    (bytes.length ≤ 3584 ∧ s.loadOpen = true ∧ hostLoad bytes s = .next (s.loaded bytes)) ∨
    (3584 < bytes.length ∧ hostLoad bytes s = .refused .loadTooLong) ∨
    (bytes.length ≤ 3584 ∧ s.loadOpen = false ∧ hostLoad bytes s = .refused .loadNotAllowed) := by
  unfold hostLoad maxProg
  by_cases h : 3584 < bytes.length
  · exact Or.inr (Or.inl ⟨h, by simp [h]⟩)
  · cases hl : s.loadOpen
    · exact Or.inr (Or.inr ⟨by omega, rfl, by simp [h]⟩)
    · exact Or.inl ⟨by omega, rfl, by simp [h]⟩

/-! ### The step -/

/-- What the host does next, and what it leaves, is all that taking an operation off changes. -/
theorem State.dequeue_frame (s : State) :
    s.dequeue = { s with hostOps := s.dequeue.hostOps, hostPlan := s.dequeue.hostPlan } := rfl

theorem nextOp_of_cons {s : State} {op : HostOp} {rest : List HostOp} (h : s.hostOps = op :: rest) : nextOp s = op := by
  simp [nextOp, h]

theorem nextOp_of_empty {s : State} (h : s.hostOps = []) : nextOp s = s.hostPlan.op := by simp [nextOp, h]

/-- A step performs the host's next operation. -/
theorem step_of_nextOp {s : State} {op : HostOp} (h : nextOp s = op) : step s = perform op s.dequeue := by
  rw [step, h]

/-- With nothing listed and a host that cycles a step is a cycle. -/
theorem step_of_cycling {s : State} (h : s.hostOps = []) (hp : s.hostPlan = .cycling) : step s = cycle s := by
  have hd : s.dequeue = s := by
    cases s; simp only [State.dequeue]; simp only at h hp; subst h hp; rfl
  rw [step_of_nextOp (nextOp_of_empty h), hp, hd]
  rfl

/-- With an operation waiting a step performs it. -/
theorem step_of_cons {s : State} {op : HostOp} {rest : List HostOp} (h : s.hostOps = op :: rest) :
    step s = perform op { s with hostOps := rest } := by
  simp [step, nextOp, State.dequeue, h]

/-- Everything a step can do. -/
theorem step_cases (s : State) :
    step s = cycle s.dequeue ∨ step s = .next s.dequeue.hostReset ∨ step s = .next s.dequeue.tick ∨
    (∃ bytes, step s = hostLoad bytes s.dequeue) ∨ (∃ k p, step s = .next (s.dequeue.setKey k p)) ∨
    step s = .next s.dequeue.surfaceReset := by
  unfold step
  cases nextOp s with
  | cycle => exact Or.inl rfl
  | reset => exact Or.inr (Or.inl rfl)
  | tick => exact Or.inr (Or.inr (Or.inl rfl))
  | load bytes => exact Or.inr (Or.inr (Or.inr (Or.inl ⟨bytes, rfl⟩)))
  | setKey k p => exact Or.inr (Or.inr (Or.inr (Or.inr (Or.inl ⟨k, p, rfl⟩))))
  | surfaceReset => exact Or.inr (Or.inr (Or.inr (Or.inr (Or.inr rfl))))

/-! ### Placing a word -/

theorem placeAddr_lt (s : State) : placeAddr s + 1 < memSize := by
  unfold placeAddr progBase memSize
  split <;> omega

/-- Placing a word keeps the canonical form of memory. -/
theorem State.placeWord_wf {s : State} (h : s.mem.wf = true) (w : Word) : (s.placeWord w).mem.wf = true := by
  have hlt := placeAddr_lt s
  exact Memory.wf_writeBlock h (by simp only [List.length_cons, List.length_nil]; omega)

/-- After placing a legal word the next step runs its instruction. -/
theorem step_placeWord {s : State} {w : Word} {i : Instr} (h : s.mem.wf = true) (hw : decodeWord w = some i) :
    step (s.placeWord w) = exec i (s.placeWord w) := by
  have hlt := placeAddr_lt s
  have hpc : (s.placeWord w).pc.toNat = placeAddr s := by
    simp only [State.placeWord, BitVec.toNat_ofNat, memSize] at hlt ⊢; omega
  have hend : (s.placeWord w).pc.toNat < (s.placeWord w).progEnd.toNat := by
    rw [hpc]; simp only [State.placeWord, memSize] at hlt ⊢
    split
    · simp only [BitVec.toNat_ofNat]; omega
    · omega
  have hblock : placeAddr s + [w.extractLsb' 8 8, w.extractLsb' 0 8].length ≤ memSize := by
    simp only [List.length_cons, List.length_nil]; omega
  have hword : (s.placeWord w).mem.read16 (s.placeWord w).pc.toNat = w := by
    rw [hpc, Memory.read16]
    have h0 := Memory.read_writeBlock_inside (k := 0) h hblock rfl
    have h1 := Memory.read_writeBlock_inside (k := 1) h hblock rfl
    rw [Nat.add_zero] at h0
    show wordOfBytes (Memory.read (s.mem.writeBlock _ _) _) (Memory.read (s.mem.writeBlock _ _) _) = w
    rw [h0, h1, wordOfBytes_halves]
  have hclosed : (s.placeWord w).closeLoad = s.placeWord w := rfl
  rw [step_of_cycling rfl rfl]
  rcases cycle_cases (s.placeWord w) with ⟨⟨f, h1⟩, _⟩ | ⟨_, h2, _⟩ | ⟨_, _, h3, _⟩ | ⟨_, _, _, ⟨j, h5, h6⟩ | ⟨h5, _⟩⟩
  · cases h1
  · rw [hpc] at h2; simp only [memSize] at hlt; omega
  · omega
  · rw [hword, hw] at h5
    rw [h6, hclosed, Option.some.inj h5]
  · rw [hword, hw] at h5; cases h5

end Sys2Proof.Machine
end

