-- ==== Sys2Proof/Tests/Slice0.lean ====
section
/-! SUPPORT. The model's own tests. Every expected result comes from spec/95_test_vectors.md or a worked example of the rule
named; `test_witness_…` shows states and operands that meet the hypotheses of the obligation it names. -/

namespace Sys2Proof.Tests

open Sys2Proof Sys2Proof.Machine

/-! ### Helpers -/

/-- The state after reset with some registers set. -/
def regs (l : List (Nibble × Byte)) : State := l.foldl (fun s p => s.setV p.1 p.2) State.reset

/-- The state after reset under a host that only cycles. -/
def idle : State := { State.reset with hostPlan := .cycling }

/-- What `f` reads in the state one step after `s` with the word `w` placed at its pc. -/
def after {α : Type} (w : Nat) (s : State) (f : State → α) : Option α :=
  match step (s.withFetchWord 16 w) with
  | .next t => some (f t)
  | .fault _ => none
  | .refused _ => none

/-- The same for one step of `s` as it stands. -/
def stepped {α : Type} (s : State) (f : State → α) : Option α :=
  match step s with
  | .next t => some (f t)
  | .fault _ => none
  | .refused _ => none

/-- The state one `exec` gives, `s` itself where there is none. -/
def ran (i : Instr) (s : State) : State :=
  match exec i s with
  | .next t => t
  | .fault _ => s
  | .refused _ => s

/-- Memory with a block stored. -/
def withBlock (a : Nat) (bytes : List Byte) (s : State) : State := s.setMem (s.mem.writeBlock a bytes)

/-- `key[k] = 1`. -/
def down (k : Nibble) (s : State) : State := s.setKey k true

/-- A stack of depth `n` with one slot set. -/
def depth (n : Fin 17) (slot : Nat) (a : Word) (s : State) : State :=
  { s with sp := n, stack := s.stack.setIfInBounds slot a }

/-! ### WellFormed: the two addresses SYS does not have (R109), and their neighbours -/

theorem test_wf_refuses_sys_0E0 : (Instr.sys 0x0E0#12).wf = false := by decide
theorem test_wf_refuses_sys_0EE : (Instr.sys 0x0EE#12).wf = false := by decide
theorem test_wf_allows_sys_0E1 : (Instr.sys 0x0E1#12).wf = true := by decide

/-! ### Decode: words written out bit by bit from R104, one for each row -/

theorem test_decode_kind0 :
    decodeWord 0b0000000011100000#16 = some .cls ∧ decodeWord 0b0000000011101110#16 = some .ret ∧
    decodeWord 0b0000000011100001#16 = some (.sys 0x0E1#12) ∧ decodeWord 0b0000111111111111#16 = some (.sys 0xFFF#12) := by
  decide
theorem test_decode_jumps :
    decodeWord 0b0001001000001000#16 = some (.jp 0x208#12) ∧ decodeWord 0b0010001100000000#16 = some (.call 0x300#12) ∧
    decodeWord 0b1011000100100011#16 = some (.jpV0 0x123#12) := by decide
theorem test_decode_skips :
    decodeWord 0b0011101001000010#16 = some (.seImm 0xA#4 0x42#8) ∧
    decodeWord 0b0100101001000010#16 = some (.sneImm 0xA#4 0x42#8) ∧
    decodeWord 0b0101000100100000#16 = some (.seReg 0x1#4 0x2#4) ∧
    decodeWord 0b1001000100100000#16 = some (.sneReg 0x1#4 0x2#4) ∧
    decodeWord 0b1110000010011110#16 = some (.skp 0x0#4) ∧ decodeWord 0b1110000110100001#16 = some (.sknp 0x1#4) := by
  decide
theorem test_decode_load_add :
    decodeWord 0b0110000000001010#16 = some (.ldImm 0x0#4 0x0A#8) ∧
    decodeWord 0b0111111100000001#16 = some (.addImm 0xF#4 0x01#8) := by decide
theorem test_decode_alu :
    decodeWord 0b1000111011110000#16 = some (.ldReg 0xE#4 0xF#4) ∧
    decodeWord 0b1000000000010001#16 = some (.orReg 0x0#4 0x1#4) ∧
    decodeWord 0b1000000000010010#16 = some (.andReg 0x0#4 0x1#4) ∧
    decodeWord 0b1000000000010011#16 = some (.xorReg 0x0#4 0x1#4) ∧
    decodeWord 0b1000101010110100#16 = some (.addReg 0xA#4 0xB#4) ∧
    decodeWord 0b1000000000010101#16 = some (.subReg 0x0#4 0x1#4) ∧
    decodeWord 0b1000111100010110#16 = some (.shr 0xF#4 0x1#4) ∧
    decodeWord 0b1000000000010111#16 = some (.subnReg 0x0#4 0x1#4) ∧
    decodeWord 0b1000000000011110#16 = some (.shl 0x0#4 0x1#4) := by decide
theorem test_decode_index_random_draw :
    decodeWord 0b1010001100000000#16 = some (.ldI 0x300#12) ∧
    decodeWord 0b1100000000001111#16 = some (.rnd 0x0#4 0x0F#8) ∧
    decodeWord 0b1101000100101010#16 = some (.drw 0x1#4 0x2#4 0xA#4) := by decide
theorem test_decode_kindF :
    decodeWord 0b1111001100000111#16 = some (.ldVxDt 0x3#4) ∧ decodeWord 0b1111000000001010#16 = some (.ldVxK 0x0#4) ∧
    decodeWord 0b1111000100010101#16 = some (.ldDtVx 0x1#4) ∧ decodeWord 0b1111000100011000#16 = some (.ldStVx 0x1#4) ∧
    decodeWord 0b1111000000011110#16 = some (.addIVx 0x0#4) ∧ decodeWord 0b1111001000101001#16 = some (.ldFVx 0x2#4) ∧
    decodeWord 0b1111000000110011#16 = some (.ldBVx 0x0#4) ∧ decodeWord 0b1111001001010101#16 = some (.ldMemVx 0x2#4) ∧
    decodeWord 0b1111111001100101#16 = some (.ldVxMem 0xE#4) := by decide
theorem test_decode_illegal :
    [0x5121#16, 0x9ABF#16, 0x8008#16, 0x800F#16, 0xE000#16, 0xE19F#16, 0xF0FF#16, 0xF000#16, 0xF075#16].all
      (fun w => decodeWord w == none) = true := by decide
theorem test_decode_bytes_high_first :
    decodeBytes [0x60#8, 0x0A#8, 0x70#8] = .ok (.ldImm 0x0#4 0x0A#8, [0x70#8]) := by rfl
theorem test_decode_table_word : decodeTableWord 16 0xD12A = some (.drw 0x1#4 0x2#4 0xA#4) := by decide

/-! ### Fetch, bounds, sentinel (spec/95_test_vectors.md section 2.2) -/

theorem test_idle_step_terminates :
    stepped idle (fun t => (t.pc, t.fault, cycleStatus idle t)) = some (0x200#16, none, .terminated) := by
  decide
theorem test_fetch_at_4095 : stepped { idle with pc := 0x0FFF#16, progEnd := 0x204#13 } (fun t => (t.pc, t.fault)) =
    some (0x0FFF#16, some ⟨.outOfBounds, 0x0FFF#16, none⟩) := by decide
theorem test_illegal_word : after 0x5121 State.reset (fun t => (t.pc, t.fault)) =
    some (0x200#16, some ⟨.unsupportedInstruction, 0x200#16, some 0x5121#16⟩) := by decide
theorem test_load_then_cycle :
    stepped { idle with hostOps := [.load [0x60#8, 0x0A#8, 0x70#8, 0x05#8]] }
      (fun t => (t.progEnd, t.loadOpen, stepped t (fun u => (u.getV 0x0#4, u.pc)))) =
    some (0x204#13, false, some (0x0A#8, 0x202#16)) := by decide

/-! ### Kinds 0, 1, 2, B -/

theorem test_sys_only_moves_the_pc : after 0x0123 State.reset (fun t => (t.pc, t.sp.val)) = some (0x202#16, 0) := by decide
theorem test_cls : after 0x00E0 ((regs [(0xF#4, 0x07#8)]).setFb [(0, 0), (3, 5)]) (fun t => (t.fb, t.pc, t.getV 0xF#4)) =
    some ([], 0x202#16, 0x07#8) := by decide
theorem test_ret : after 0x00EE (depth 1 0 0x20E#16 State.reset) (fun t => (t.pc, t.sp.val)) = some (0x20E#16, 0) := by decide
theorem test_ret_empty : after 0x00EE State.reset (fun t => (t.pc, t.sp.val, t.fault)) =
    some (0x200#16, 0, some ⟨.stackUnderflow, 0x200#16, some 0x00EE#16⟩) := by decide
theorem test_jp : after 0x1201 State.reset (fun t => t.pc) = some 0x201#16 := by decide
theorem test_call : after 0x2300 (depth 15 0 0#16 State.reset) (fun t => (t.pc, t.sp.val, t.slot 15)) =
    some (0x300#16, 16, 0x202#16) := by decide
theorem test_call_full : after 0x2300 (depth 16 0 0#16 State.reset) (fun t => (t.pc, t.sp.val, t.fault)) =
    some (0x200#16, 16, some ⟨.stackOverflow, 0x200#16, some 0x2300#16⟩) := by decide
theorem test_jpV0 : after 0xBFFF (regs [(0x0#4, 0xFF#8), (0xF#4, 0x11#8)]) (fun t => t.pc) = some 0x10FE#16 := by decide

/-! ### Skips -/

theorem test_seImm : after 0x3A42 (regs [(0xA#4, 0x42#8)]) (fun t => t.pc) = some 0x204#16 ∧
    after 0x3A42 (regs [(0xA#4, 0x43#8)]) (fun t => t.pc) = some 0x202#16 := by decide
theorem test_sneImm : after 0x4A42 (regs [(0xA#4, 0x42#8)]) (fun t => t.pc) = some 0x202#16 ∧
    after 0x4A42 (regs [(0xA#4, 0x43#8)]) (fun t => t.pc) = some 0x204#16 := by decide
theorem test_seReg : after 0x5120 (regs [(0x1#4, 0x99#8), (0x2#4, 0x99#8)]) (fun t => t.pc) = some 0x204#16 ∧
    after 0x5120 (regs [(0x1#4, 0x99#8), (0x2#4, 0x98#8)]) (fun t => t.pc) = some 0x202#16 := by decide
theorem test_sneReg : after 0x9120 (regs [(0x1#4, 0x99#8), (0x2#4, 0x98#8)]) (fun t => t.pc) = some 0x204#16 ∧
    after 0x9110 (regs [(0x1#4, 0x99#8)]) (fun t => t.pc) = some 0x202#16 := by decide
theorem test_skp : after 0xE09E (down 0x5#4 (regs [(0x0#4, 0x05#8)])) (fun t => t.pc) = some 0x204#16 ∧
    after 0xE09E (down 0x5#4 (regs [(0x0#4, 0x15#8)])) (fun t => t.pc) = some 0x202#16 := by decide
theorem test_sknp : after 0xE0A1 (down 0x5#4 (regs [(0x0#4, 0x05#8)])) (fun t => t.pc) = some 0x202#16 ∧
    after 0xE0A1 (down 0x5#4 (regs [(0x0#4, 0x15#8)])) (fun t => t.pc) = some 0x204#16 := by decide

/-! ### Kinds 6, 7, 8 -/

theorem test_ldImm : after 0x6FFF State.reset (fun t => (t.getV 0xF#4, t.pc)) = some (0xFF#8, 0x202#16) := by decide
theorem test_addImm_no_flag : after 0x7001 (regs [(0x0#4, 0xFF#8)]) (fun t => (t.getV 0x0#4, t.getV 0xF#4)) =
    some (0x00#8, 0x00#8) := by decide

/-- V0, V1 and VF after a word of kind 8, from V0, V1 as given and VF = 0x55 (section 2.6). -/
def alu (w : Nat) (v0 v1 : Byte) : Option (Byte × Byte × Byte) :=
  after w (regs [(0x0#4, v0), (0x1#4, v1), (0xF#4, 0x55#8)]) (fun t => (t.getV 0x0#4, t.getV 0x1#4, t.getV 0xF#4))

/-- V1 and VF after a word of kind 8, from V1 = 0x64 and VF = 0xC8 (R181). -/
def cornerF (w : Nat) : Option (Byte × Byte) :=
  after w (regs [(0x1#4, 0x64#8), (0xF#4, 0xC8#8)]) (fun t => (t.getV 0x1#4, t.getV 0xF#4))

theorem test_ldReg : alu 0x8010 0x12#8 0x34#8 = some (0x34#8, 0x34#8, 0x55#8) := by decide
theorem test_orReg : alu 0x8011 0x0F#8 0xF0#8 = some (0xFF#8, 0xF0#8, 0x55#8) := by decide
theorem test_andReg : alu 0x8012 0x3C#8 0x0F#8 = some (0x0C#8, 0x0F#8, 0x55#8) := by decide
theorem test_xorReg : alu 0x8013 0xFF#8 0x0F#8 = some (0xF0#8, 0x0F#8, 0x55#8) := by decide
theorem test_addReg_carry : alu 0x8014 0xFF#8 0x01#8 = some (0x00#8, 0x01#8, 0x01#8) ∧
    alu 0x8014 0xFE#8 0x01#8 = some (0xFF#8, 0x01#8, 0x00#8) := by decide
theorem test_addReg_vf : cornerF 0x8F14 = some (0x64#8, 0x2C#8) ∧ cornerF 0x81F4 = some (0x2C#8, 0x01#8) := by decide
theorem test_subReg_borrow : alu 0x8015 0x05#8 0x07#8 = some (0xFE#8, 0x07#8, 0x00#8) ∧
    alu 0x8015 0x07#8 0x07#8 = some (0x00#8, 0x07#8, 0x01#8) := by decide
theorem test_subReg_vf : cornerF 0x8F15 = some (0x64#8, 0x64#8) ∧ cornerF 0x81F5 = some (0x9C#8, 0x00#8) := by decide
theorem test_shr : alu 0x8016 0xFF#8 0xEE#8 = some (0x7F#8, 0xEE#8, 0x01#8) := by decide
theorem test_shr_vf : cornerF 0x8F16 = some (0x64#8, 0x64#8) := by decide
theorem test_subnReg_borrow : alu 0x8017 0x05#8 0x07#8 = some (0x02#8, 0x07#8, 0x01#8) ∧
    alu 0x8017 0x07#8 0x05#8 = some (0xFE#8, 0x05#8, 0x00#8) := by decide
theorem test_subnReg_vf : cornerF 0x8F17 = some (0x64#8, 0x9C#8) ∧ cornerF 0x81F7 = some (0x64#8, 0x01#8) := by decide
theorem test_shl : alu 0x801E 0x81#8 0xEE#8 = some (0x02#8, 0xEE#8, 0x01#8) := by decide
theorem test_shl_vf : cornerF 0x8F1E = some (0x64#8, 0x90#8) := by decide

/-! ### Kinds A, C, D -/

theorem test_ldI_clears_the_high_bits : after 0xA000 (State.reset.setI 0xFFFF#16) (fun t => t.i) = some 0x0000#16 := by decide
theorem test_rnd_takes_a_byte : after 0xC00F State.reset (fun t => (t.rndCount, t.pc)) = some (1, 0x202#16) := by decide
theorem test_drw_no_rows : after 0xD000 ((regs [(0xF#4, 0x01#8)]).setI 0x1234#16) (fun t => (t.getV 0xF#4, t.fault, t.fb)) =
    some (0x00#8, none, []) := by decide
theorem test_drw_beyond_memory :
    after 0xD003 ((regs [(0xF#4, 0x07#8)]).setI 0x0FFE#16) (fun t => (t.getV 0xF#4, t.pc, t.fault)) =
    some (0x07#8, 0x200#16, some ⟨.outOfBounds, 0x200#16, some 0xD003#16⟩) := by decide

/-- Glyph "0" of R207's example, given as bytes so that no font is assumed. -/
def glyph0 : List Byte := [0xF0#8, 0x90#8, 0x90#8, 0x90#8, 0xF0#8]

/-- R207: fourteen pixels at (62, 30), wrapped on both axes of a 64 by 32 surface; here as (row, column). -/
def glyph0Pixels : Surface :=
  [(0, 1), (0, 62), (1, 1), (1, 62), (2, 0), (2, 1), (2, 62), (2, 63), (30, 0), (30, 1), (30, 62), (30, 63), (31, 1), (31, 62)]

theorem test_drawSprite_wraps : Surface.drawSprite 64 32 0x3E#8 0x1E#8 glyph0 [] = (glyph0Pixels, false) := by decide
theorem test_drawSprite_again : Surface.drawSprite 64 32 0x3E#8 0x1E#8 glyph0 glyph0Pixels = ([], true) := by decide

/-! ### The key wait -/

theorem test_ldVxK_blocks : after 0xF00A (regs [(0x0#4, 0x33#8)]) (fun t => (t.blocked, t.pc, t.getV 0x0#4)) =
    some (true, 0x200#16, 0x33#8) := by decide
theorem test_ldVxK_lowest :
    after 0xF00A (down 0x9#4 (down 0x3#4 (State.reset.setBlocked true))) (fun t => (t.blocked, t.pc, t.getV 0x0#4)) =
    some (false, 0x202#16, 0x03#8) := by decide

/-! ### Kind F -/

theorem test_ldVxDt : after 0xF307 (State.reset.setDt 0x2A#8) (fun t => (t.getV 0x3#4, t.dt)) = some (0x2A#8, 0x2A#8) := by decide
theorem test_ldDtVx : after 0xF115 (regs [(0x1#4, 0x3C#8)]) (fun t => t.dt) = some 0x3C#8 := by decide
theorem test_ldStVx : after 0xF118 ((regs [(0x1#4, 0x00#8)]).setSt 0x09#8) (fun t => (t.st, t.sound)) = some (0x00#8, false) := by
  decide
theorem test_ldStVx_sounds : after 0xF118 (regs [(0x1#4, 0x05#8)]) (fun t => (t.st, t.sound)) = some (0x05#8, true) := by decide
theorem test_addIVx_wraps : after 0xF01E ((regs [(0x0#4, 0x02#8)]).setI 0xFFFF#16) (fun t => t.i) = some 0x0001#16 := by decide
theorem test_addIVx_past_4095 : after 0xF01E ((regs [(0x0#4, 0x01#8)]).setI 0x0FFF#16) (fun t => (t.i, t.getV 0xF#4)) =
    some (0x1000#16, 0x00#8) := by decide
theorem test_ldFVx : after 0xF229 (regs [(0x2#4, 0x0A#8)]) (fun t => t.i) = some 0x0032#16 := by decide
theorem test_ldFVx_no_mask : after 0xF029 (regs [(0x0#4, 0xFF#8)]) (fun t => t.i) = some 0x04FB#16 := by decide
theorem test_ldBVx : after 0xF033 ((regs [(0x0#4, 0xEA#8)]).setI 0x300#16)
    (fun t => (t.mem.read 0x300, t.mem.read 0x301, t.mem.read 0x302, t.i)) = some (0x02#8, 0x03#8, 0x04#8, 0x300#16) := by
  decide
theorem test_ldBVx_beyond_memory : after 0xF033 (State.reset.setI 0x0FFE#16) (fun t => (t.mem.read 0xFFE, t.fault)) =
    some (0x00#8, some ⟨.outOfBounds, 0x200#16, some 0xF033#16⟩) := by decide
theorem test_ldMemVx :
    after 0xF255 ((regs [(0x0#4, 0x11#8), (0x1#4, 0x22#8), (0x2#4, 0x33#8), (0x3#4, 0x44#8)]).setI 0x400#16)
      (fun t => (t.mem.read 0x400, t.mem.read 0x401, t.mem.read 0x402, t.mem.read 0x403, t.i)) =
    some (0x11#8, 0x22#8, 0x33#8, 0x00#8, 0x400#16) := by decide
theorem test_ldMemVx_beyond_memory : after 0xFF55 ((regs [(0x0#4, 0x11#8)]).setI 0x0FF1#16)
    (fun t => (t.mem.read 0xFF1, t.fault)) = some (0x00#8, some ⟨.outOfBounds, 0x200#16, some 0xFF55#16⟩) := by decide
theorem test_ldVxMem :
    after 0xF265 (withBlock 0x300 [0x02#8, 0x03#8, 0x04#8, 0x05#8] ((regs [(0x3#4, 0x77#8)]).setI 0x300#16))
      (fun t => (t.getV 0x0#4, t.getV 0x1#4, t.getV 0x2#4, t.getV 0x3#4, t.i)) =
    some (0x02#8, 0x03#8, 0x04#8, 0x77#8, 0x300#16) := by decide
theorem test_ldVxMem_no_address_wrap : after 0xF165 ((regs [(0x0#4, 0x09#8)]).setI 0xFFFF#16)
    (fun t => (t.getV 0x0#4, t.fault)) = some (0x09#8, some ⟨.outOfBounds, 0x200#16, some 0xF165#16⟩) := by decide

/-! ### The host's operations -/

theorem test_tick : stepped { State.reset with dt := 0x02#8, hostOps := [.tick] } (fun t => (t.dt, t.st, t.pc)) =
    some (0x01#8, 0x00#8, 0x200#16) := by decide
theorem test_reset_op : stepped { ran .ret State.reset with fb := [(1, 2)], hostOps := [.reset] }
    (fun t => (t.fault, t.fb, t.loadOpen)) = some (none, [(1, 2)], true) := by decide

/-! ### Witnesses: encoding and the cycle -/

theorem test_witness_DecodeOfEncode : (Instr.sys 0x0E1#12).wf = true ∧ (Instr.shl 0xF#4 0xF#4).wf = true := by decide
theorem test_witness_EncodeOfDecode : decodeWord 0x8AB6#16 = some (.shr 0xA#4 0xB#4) := by decide
theorem test_witness_SysSpaceIsNoOp :
    kind 0x0FFF#16 = 0x0#4 ∧ 0x0FFF#16 ≠ 0x00E0#16 ∧ 0x0FFF#16 ≠ 0x00EE#16 := by decide
theorem test_witness_FetchSeesStores : Memory.wf [(0x200, 0x12#8)] = true ∧ 4094 + 2 ≤ 4096 := by decide

/-- `LD V0,K` in the last two bytes of memory, at the pc. -/
def atTheEnd : State := ({ State.reset with pc := 0x0FFE#16, progEnd := 0x1000#13 }).withFetchWord 16 0xF00A

theorem test_witness_StepRunsDecodedInstruction :
    nextOp atTheEnd = .cycle ∧ atTheEnd.fault = none ∧ atTheEnd.pc.toNat + 1 ≤ 4095 ∧
    atTheEnd.pc.toNat < atTheEnd.progEnd.toNat ∧
    decodeBytes [atTheEnd.mem.read atTheEnd.pc.toNat, atTheEnd.mem.read (atTheEnd.pc.toNat + 1)] =
      .ok (.ldVxK 0x0#4, []) := by
  refine ⟨by decide, by decide, by decide, by decide, by rfl⟩
/-- The hypotheses of the clauses on what the host does next: an operation listed, a host that cycles, a free host. -/
theorem test_witness_StepRunsDecodedInstruction_next :
    ({ State.reset with hostOps := [.tick, .cycle] } : State).hostOps = .tick :: [.cycle] ∧
    (idle.hostOps = [] ∧ idle.hostPlan = .cycling) ∧
    (State.reset.hostOps = [] ∧ State.reset.hostPlan = .free 0) := by decide
theorem test_free_host_goes_on :
    nextOp State.reset = Config.hostChoice 0 ∧ State.reset.dequeue.hostPlan = .free 1 := ⟨rfl, rfl⟩
theorem test_witness_FetchBeyondMemoryFaults :
    nextOp (idle.setPc 0x0FFF#16) = .cycle ∧ (idle.setPc 0x0FFF#16).fault = none ∧
    4095 ≤ (idle.setPc 0x0FFF#16).pc.toNat := by decide
theorem test_witness_SentinelEndsTheRun :
    nextOp (idle.setPc 0x0FFE#16) = .cycle ∧ (idle.setPc 0x0FFE#16).fault = none ∧
    (idle.setPc 0x0FFE#16).pc.toNat ≤ 4094 ∧
    (idle.setPc 0x0FFE#16).progEnd.toNat ≤ (idle.setPc 0x0FFE#16).pc.toNat := by decide
theorem test_witness_IllegalWordFaults :
    let s := State.reset.withFetchWord 16 0x9ABF
    nextOp s = .cycle ∧ s.fault = none ∧ s.pc.toNat ≤ 4094 ∧ s.pc.toNat < s.progEnd.toNat ∧
    decodeWord (s.mem.read16 s.pc.toNat) = none := by decide
theorem test_witness_FaultIsSticky :
    nextOp (ran .ret idle) = .cycle ∧
    (ran .ret idle).fault = some ⟨.stackUnderflow, 0x200#16, some 0x00EE#16⟩ := by decide
theorem test_witness_OnlyKeyWaitBlocks :
    cycle atTheEnd = .next (ran (.ldVxK 0x0#4) atTheEnd) ∧
    cycleStatus atTheEnd (ran (.ldVxK 0x0#4) atTheEnd) = .blocked := ⟨rfl, by decide⟩

/-! ### Witnesses: whole-machine rules -/

theorem test_witness_FaultingInstructionCommitsNothing :
    State.reset.fault = none ∧ exec .ret State.reset = .next (ran .ret State.reset) ∧
    (ran .ret State.reset).fault = some ⟨.stackUnderflow, 0x200#16, some 0x00EE#16⟩ := ⟨rfl, rfl, rfl⟩

/-- One state and instruction for each disjunct: CALL on a full stack, RET on an empty one, and the four instructions whose
range passes 4095 by one byte. -/
theorem test_witness_EachFaultHasItsInstruction :
    (let s := depth 16 0 0#16 State.reset
     s.fault = none ∧ exec (.call 0x300#12) s = .next (ran (.call 0x300#12) s) ∧
     (ran (.call 0x300#12) s).fault = some ⟨.stackOverflow, 0x200#16, some 0x2300#16⟩) ∧
    (exec .ret State.reset = .next (ran .ret State.reset) ∧
     (ran .ret State.reset).fault = some ⟨.stackUnderflow, 0x200#16, some 0x00EE#16⟩) ∧
    (let s := State.reset.setI 0x0FFE#16
     s.fault = none ∧ exec (.drw 0x0#4 0x0#4 0x3#4) s = .next (ran (.drw 0x0#4 0x0#4 0x3#4) s) ∧
     (ran (.drw 0x0#4 0x0#4 0x3#4) s).fault = some ⟨.outOfBounds, 0x200#16, some 0xD003#16⟩ ∧
     exec (.ldBVx 0x0#4) s = .next (ran (.ldBVx 0x0#4) s) ∧
     (ran (.ldBVx 0x0#4) s).fault = some ⟨.outOfBounds, 0x200#16, some 0xF033#16⟩ ∧
     exec (.ldMemVx 0x2#4) s = .next (ran (.ldMemVx 0x2#4) s) ∧
     (ran (.ldMemVx 0x2#4) s).fault = some ⟨.outOfBounds, 0x200#16, some 0xF255#16⟩ ∧
     exec (.ldVxMem 0x2#4) s = .next (ran (.ldVxMem 0x2#4) s) ∧
     (ran (.ldVxMem 0x2#4) s).fault = some ⟨.outOfBounds, 0x200#16, some 0xF265#16⟩) :=
  ⟨⟨rfl, rfl, rfl⟩, ⟨rfl, rfl⟩, rfl, rfl, rfl, rfl, rfl, rfl, rfl, rfl, rfl⟩
theorem test_witness_OnlySixInstructionsWriteVFAsAFlag :
    exec (.xorReg 0x0#4 0xF#4) State.reset = .next (ran (.xorReg 0x0#4 0xF#4) State.reset) ∧
    writesFlag (.xorReg 0x0#4 0xF#4) = false ∧ destReg (.xorReg 0x0#4 0xF#4) ≠ some 0xF#4 :=
  ⟨rfl, rfl, by decide⟩

/-- SYS writes none of the parts: every premise of the conclusion holds for it. -/
theorem test_witness_EachPartHasItsOwnWriters :
    exec (.sys 0x000#12) State.reset = .next (ran (.sys 0x000#12) State.reset) ∧
    (∀ x, Instr.sys 0x000#12 ≠ .ldBVx x ∧ Instr.sys 0x000#12 ≠ .ldMemVx x) ∧
    (∀ nnn, Instr.sys 0x000#12 ≠ .call nnn ∧ Instr.sys 0x000#12 ≠ .ret) ∧
    (∀ nnn x, Instr.sys 0x000#12 ≠ .ldI nnn ∧ Instr.sys 0x000#12 ≠ .addIVx x ∧ Instr.sys 0x000#12 ≠ .ldFVx x) ∧
    (∀ x, Instr.sys 0x000#12 ≠ .ldDtVx x) ∧ (∀ x, Instr.sys 0x000#12 ≠ .ldStVx x) ∧
    (Instr.sys 0x000#12 ≠ .cls ∧ ∀ x y n, Instr.sys 0x000#12 ≠ .drw x y n) ∧
    (∀ x, Instr.sys 0x000#12 ≠ .ldVxK x) ∧ ∀ x nn, Instr.sys 0x000#12 ≠ .rnd x nn := by
  refine ⟨rfl, ?_, ?_, ?_, ?_, ?_, ?_, ?_, ?_⟩ <;> simp
theorem test_witness_CanonicalMemoryIsItsReads :
    Memory.wf [(0x0FFF, 0x01#8)] = true ∧ ∀ a, Memory.read [(0x0FFF, 0x01#8)] a = Memory.read [(0x0FFF, 0x01#8)] a :=
  ⟨by decide, fun _ => rfl⟩

/-- A blocked engine at the last fetch address meets the invariant, and steps. -/
theorem test_witness_StepKeepsTheInvariant :
    Inv (ran (.ldVxK 0x0#4) atTheEnd) ∧ (step (ran (.ldVxK 0x0#4) atTheEnd) = .next (ran (.ldVxK 0x0#4) atTheEnd)) := by
  refine ⟨⟨by decide, by rfl, by decide, by decide, by decide, fun _ => ⟨by decide, by decide, 0x0#4, by decide⟩,
    (by intro f h; cases h), (by intro h; cases h)⟩, rfl⟩

/-- So does a faulted one, with one return address on the stack. -/
theorem test_witness_StepKeepsTheInvariant_faulted :
    Inv { ran .ret (State.reset.withFetchWord 16 0x00EE) with sp := 1 } := by
  refine ⟨by decide, by rfl, by decide, by decide, by decide, (by intro h; cases h), ?_, (by intro h; cases h)⟩
  intro f h
  cases h
  exact ⟨rfl, by decide⟩

/-! ### Witnesses: instructions -/

theorem test_witness_RetPopsTheStack : (depth 1 0 0x20E#16 State.reset).sp.val ≠ 0 ∧
    (depth 16 15 0x0FFF#16 State.reset).sp.val ≠ 0 := by decide
theorem test_witness_CallPushesAndJumps : State.reset.sp.val < 16 ∧ (depth 15 0 0#16 State.reset).sp.val < 16 := by decide
theorem test_witness_StackDisciplineFaults : State.reset.sp.val = 0 ∧ (depth 16 0 0#16 State.reset).sp.val = 16 := by decide
theorem test_witness_RetRestoresTheCallersPc :
    let s := depth 15 0 0x300#16 State.reset
    let t := ran (.call 0x400#12) s
    let u := (t.setPc 0x406#16).setV 0x3#4 0x07#8
    s.sp.val < 16 ∧ exec (.call 0x400#12) s = .next t ∧ u.stack = t.stack ∧ u.sp = t.sp ∧ exec .ret u = .next (ran .ret u) :=
  ⟨by decide, rfl, rfl, rfl, rfl⟩
theorem test_witness_JpGoesToItsAddress :
    State.reset.fault = none ∧ (0xFFE#12 : Addr12) ≠ 0xFFF#12 ∧ State.reset.progEnd.toNat ≤ (0xFFE#12 : Addr12).toNat := by
  decide
theorem test_witness_JpV0AddsV0 : (regs [(0x0#4, 0x01#8)]).fault = none ∧
    4095 ≤ (0xFFE#12 : Addr12).toNat + ((regs [(0x0#4, 0x01#8)]).getV 0x0#4).toNat := by decide
theorem test_witness_SkipOnKey :
    ((regs [(0x0#4, 0x0F#8)]).getV 0x0#4).toNat = (0xF#4 : Nibble).toNat ∧
    15 < ((regs [(0x0#4, 0x10#8)]).getV 0x0#4).toNat := by decide
theorem test_witness_DrawWritesCollision :
    (0x0#4 : Nibble) = 0#4 ∧ (State.reset.setI 0x0FFF#16).i.toNat + (0x1#4 : Nibble).toNat ≤ 4096 ∧
    (State.reset.setI 0x0FF1#16).i.toNat + (0xF#4 : Nibble).toNat ≤ 4096 := by decide
theorem test_witness_DrawSpriteXorsCoveredPixels :
    8 ≤ 64 ∧ glyph0.length ≤ 5 ∧ Surface.sorted glyph0Pixels = true := by decide
theorem test_witness_DrawingTwiceRestores :
    Surface.sorted glyph0Pixels = true ∧ 8 ≤ 8 ∧ glyph0.length ≤ 5 := by decide
theorem test_witness_KeyWaitBlocks :
    (∀ k, atTheEnd.keyDown k = false) ∧ (ran (.ldVxK 0x0#4) atTheEnd).fault = none ∧
    fetch atTheEnd = .instr (.ldVxK 0x0#4) := by decide
theorem test_witness_KeyWaitTakesTheLowestKey :
    (down 0xF#4 State.reset).keyDown 0xF#4 = true ∧ (∀ j, j < 0xF#4 → (down 0xF#4 State.reset).keyDown j = false) ∧
    (down 0x9#4 (down 0x0#4 State.reset)).keyDown 0x0#4 = true ∧
    ∀ j, j < 0x0#4 → (down 0x9#4 (down 0x0#4 State.reset)).keyDown j = false := by decide
theorem test_witness_BcdStore :
    (State.reset.setI 0x0FFD#16).mem.wf = true ∧ (State.reset.setI 0x0FFD#16).i.toNat + 3 ≤ 4096 := by decide
theorem test_witness_RegisterStore :
    (State.reset.setI 0x0FF0#16).mem.wf = true ∧
    (State.reset.setI 0x0FF0#16).i.toNat + (0xF#4 : Nibble).toNat + 1 ≤ 4096 ∧
    (State.reset.setI 0x0FFF#16).i.toNat + (0x0#4 : Nibble).toNat + 1 ≤ 4096 := by decide
theorem test_witness_RegisterLoad :
    (State.reset.setI 0x0FF0#16).i.toNat + (0xF#4 : Nibble).toNat + 1 ≤ 4096 ∧
    (State.reset.setI 0x0FFF#16).i.toNat + (0x0#4 : Nibble).toNat + 1 ≤ 4096 := by decide
theorem test_witness_StoreThenLoadGivesBackTheBlock :
    let s := (regs [(0x0#4, 0x11#8), (0x1#4, 0x22#8)]).setI 0x0FFE#16
    let t := ran (.ldMemVx 0x1#4) s
    let u := t.setV 0x0#4 0x99#8
    s.mem.wf = true ∧ s.i.toNat + (0x1#4 : Nibble).toNat + 1 ≤ 4096 ∧ exec (.ldMemVx 0x1#4) s = .next t ∧
    u.mem = t.mem ∧ u.i = t.i ∧ exec (.ldVxMem 0x1#4) u = .next (ran (.ldVxMem 0x1#4) u) :=
  ⟨by decide, by decide, rfl, rfl, rfl, rfl⟩
theorem test_witness_DataBeyondMemoryFaults :
    ((0x1#4 : Nibble) ≠ 0#4 ∧ 4095 < (State.reset.setI 0x1000#16).i.toNat + (0x1#4 : Nibble).toNat - 1) ∧
    4095 < (State.reset.setI 0x0FFE#16).i.toNat + 2 ∧
    4095 < (State.reset.setI 0x0FF1#16).i.toNat + (0xF#4 : Nibble).toNat ∧
    4095 < (State.reset.setI 0x1000#16).i.toNat + (0x0#4 : Nibble).toNat := by decide

/-! ### Witnesses: the host's operations -/

theorem test_witness_TickCountsDown : nextOp { State.reset with hostOps := [.tick] } = .tick := rfl
theorem test_witness_SetKeyWritesOneKey :
    nextOp { State.reset with hostOps := [.setKey 0xF#4 true] } = .setKey 0xF#4 true ∧
    exec .cls State.reset = .next (ran .cls State.reset) := ⟨rfl, rfl⟩
theorem test_witness_ResetFromAnyState : nextOp { State.reset with hostOps := [.reset, .cycle] } = .reset := rfl

/-- The state after reset with one `Load` waiting meets the invariant. -/
theorem inv_loading (bytes : List Byte) : Inv { State.reset with hostOps := [.load bytes] } := by
  refine ⟨by rfl, by rfl, ⟨Nat.le_refl _, show 0x200 ≤ 0x1000 by decide⟩, show 0x200 ≤ 0x10FE by decide, ?_, (by intro h; cases h),
    (by intro f h; cases h), fun _ => rfl⟩
  intro j hj
  cases hj

theorem test_witness_LoadLaunchesOrIsRefused :
    Inv { State.reset with hostOps := [.load (List.replicate 3584 0x12#8)] } ∧
    nextOp { State.reset with hostOps := [.load (List.replicate 3584 0x12#8)] } = .load (List.replicate 3584 0x12#8) ∧
    (∀ k, State.reset.keyDown k = false) ∧
    (List.replicate 3584 0x12#8).length ≤ 3584 ∧ State.reset.loadOpen = true :=
  ⟨inv_loading _, rfl, by decide, by rw [List.length_replicate], rfl⟩
theorem test_witness_LoadLaunchesOrIsRefused_afterReset :
    ({ ran .ret State.reset with hostOps := [.reset, .load [0x12#8]] } : State).hostOps = .reset :: .load [0x12#8] :: [] ∧
    [0x12#8].length ≤ 3584 ∧ Launched [0x12#8] ((ran .ret State.reset).hostReset.loaded [0x12#8]) ∧
    CleanSurface (ran .ret State.reset) :=
  ⟨rfl, by decide, ⟨by decide, _, rfl⟩, by intro p; rfl⟩
theorem test_witness_LoadLaunchesOrIsRefused_tooLong :
    Inv { State.reset with hostOps := [.load (List.replicate 3585 0x12#8)] } ∧
    3584 < (List.replicate 3585 0x12#8).length :=
  ⟨inv_loading _, by rw [List.length_replicate]; decide⟩
theorem test_witness_LoadLaunchesOrIsRefused_notAllowed :
    Inv { State.reset with hostOps := [.load [0x12#8]], loadOpen := false } ∧ [0x12#8].length ≤ 3584 := by
  refine ⟨⟨by rfl, by rfl, ⟨by decide, by decide⟩, by decide, ?_, (by intro h; cases h), (by intro f h; cases h),
    (by intro h; cases h)⟩, by decide⟩
  intro j hj
  cases hj

end Sys2Proof.Tests
end

section
/-! Proofs of the encoding family: the fields of a word as numbers, the fetched word as a number, and the `SYS` space. -/

namespace Sys2Proof

/-! ### The fields of a word as numbers (R101) -/

theorem kind_toNat (w : Word) : (kind w).toNat = w.toNat / 4096 := by
  rw [kind, BitVec.extractLsb'_toNat, Nat.shiftRight_eq_div_pow]
  omega

theorem fieldX_toNat (w : Word) : (fieldX w).toNat = w.toNat / 256 % 16 := by
  rw [fieldX, BitVec.extractLsb'_toNat, Nat.shiftRight_eq_div_pow]

theorem fieldY_toNat (w : Word) : (fieldY w).toNat = w.toNat / 16 % 16 := by
  rw [fieldY, BitVec.extractLsb'_toNat, Nat.shiftRight_eq_div_pow]

theorem fieldN_toNat (w : Word) : (fieldN w).toNat = w.toNat % 16 := by
  rw [fieldN, BitVec.extractLsb'_toNat, Nat.shiftRight_zero]

theorem fieldNN_toNat (w : Word) : (fieldNN w).toNat = w.toNat % 256 := by
  rw [fieldNN, BitVec.extractLsb'_toNat, Nat.shiftRight_zero]

theorem fieldNNN_toNat (w : Word) : (fieldNNN w).toNat = w.toNat % 4096 := by
  rw [fieldNNN, BitVec.extractLsb'_toNat, Nat.shiftRight_zero]

/-! ### Words from two bytes (R71) -/

/-- The number R71 writes as `hi*256+lo`. -/
theorem wordOfBytes_toNat (hi lo : Byte) : (wordOfBytes hi lo).toNat = hi.toNat * 256 + lo.toNat := by
  rw [wordOfBytes, BitVec.toNat_append, ← Nat.shiftLeft_add_eq_or_of_lt lo.isLt, Nat.shiftLeft_eq]

/-- The high byte of a word is its first two nibbles, `kind` and `x`. -/
theorem wordOfBytes_high (hi lo : Byte) :
    hi.toNat = (kind (wordOfBytes hi lo)).toNat * 16 + (fieldX (wordOfBytes hi lo)).toNat := by
  rw [kind_toNat, fieldX_toNat, wordOfBytes_toNat]
  omega

/-- The low byte of a word is its field `nn`. -/
@[simp] theorem fieldNN_wordOfBytes (hi lo : Byte) : fieldNN (wordOfBytes hi lo) = lo :=
  BitVec.eq_of_toNat_eq (by rw [fieldNN_toNat, wordOfBytes_toNat]; omega)

/-- The field `nn` is the two nibbles `y` and `n`. -/
theorem fieldNN_toNat_nibbles (w : Word) : (fieldNN w).toNat = (fieldY w).toNat * 16 + (fieldN w).toNat := by
  rw [fieldNN_toNat, fieldY_toNat, fieldN_toNat]
  omega

/-! ### The words of kind 0 (R109, R131) -/

theorem decodeWord_of_kind_zero {w : Word} (h : kind w = 0x0#4) : decodeWord w = decodeKind0 w := by
  simp [decodeWord, h]

/-- A word of kind 0 is fixed by its address field. -/
theorem eq_wordNNN_of_kind_zero {w : Word} {a : Addr12} (hk : kind w = 0x0#4) (ha : fieldNNN w = a) :
    w = wordNNN 0x0#4 a := by
  rw [← hk, ← ha, wordNNN_fields]

/-- Neither exception of R109 fits a word of kind 0 that is neither 0x00E0 nor 0x00EE, so `SYS` is what is left. -/
theorem decodeWord_sys {w : Word} (hk : kind w = 0x0#4) (hcls : w ≠ 0x00E0#16) (hret : w ≠ 0x00EE#16) :
    decodeWord w = some (.sys (fieldNNN w)) := by
  have hE0 : fieldNNN w ≠ 0x0E0#12 := fun h => hcls (eq_wordNNN_of_kind_zero hk h)
  have hEE : fieldNNN w ≠ 0x0EE#12 := fun h => hret (eq_wordNNN_of_kind_zero hk h)
  rw [decodeWord_of_kind_zero hk, decodeKind0, if_neg hE0, if_neg hEE]

namespace Machine

/-- An instruction that completes without changing control flow ends two bytes on and changes nothing else (R106). -/
theorem complete_eq (s : State) : complete s = .next { s with pc := s.pc + 2#16 } := rfl

/-- `SYS` does nothing but complete, whatever its address (R131). -/
theorem exec_sys (nnn : Addr12) (s : State) : exec (.sys nnn) s = complete s := rfl

end Machine

/-! ### The obligations -/

/-- Settles O1: each field is a quotient or a remainder of the word's number, and the fetched word is
`hi*256+lo` (R71), so its two bytes are read off from its fields. -/
theorem fieldsAreTheBitRanges : Obligations.FieldsAreTheBitRanges := by
  refine ⟨fun w => ⟨kind_toNat w, fieldX_toNat w, fieldY_toNat w, fieldN_toNat w, fieldNN_toNat w, fieldNNN_toNat w⟩,
    fun m a => ?_⟩
  have hlow : fieldNN (m.read16 a) = m.read (a + 1) := fieldNN_wordOfBytes _ _
  refine ⟨wordOfBytes_high _ _, hlow.symm, ?_⟩
  rw [← hlow, fieldNN_toNat_nibbles]

/-- Settles O6: a word of kind 0 that is neither exception decodes to `SYS`, and `SYS` only completes. -/
theorem sysSpaceIsNoOp : Obligations.SysSpaceIsNoOp := by
  refine ⟨fun w hk hcls hret => ⟨decodeWord_sys hk hcls hret, fun s => ?_⟩, by decide, by decide⟩
  rw [Machine.exec_sys, Machine.complete_eq]

end Sys2Proof
end

section
/-! Proofs of the flow family: every instruction and every cycle has a next state, the status of a cycle that fetches
nothing, the cleared surface, and the jump. -/

namespace Sys2Proof

namespace Machine

/-! ### Every instruction and every cycle has a next state (R106, R273) -/

/-- The bounds check answers a next state where the access it guards does: the only other way out is a fault, which is a
next state too (R272). -/
theorem exists_checkRange_eq_next {start count : Nat} {i : Instr} {s : State} {ok : Result} (h : ∃ t, ok = .next t) :
    ∃ t, checkRange start count i s ok = .next t := by
  rcases checkRange_cases start count i s ok with ⟨-, -, heq⟩ | ⟨-, heq⟩
  · exact ⟨_, heq⟩
  · rwa [heq]

/-- RET faults on an empty stack and returns on any other (R133). -/
theorem execRet_cases (s : State) :
    (s.sp.val = 0 ∧ execRet s = raise .stackUnderflow (some (encode .ret)) s) ∨
    (s.sp.val ≠ 0 ∧ execRet s = goTo s.top s.pop) := by
  by_cases h : s.sp.val = 0
  · exact Or.inl ⟨h, if_pos h⟩
  · exact Or.inr ⟨h, if_neg h⟩

/-- CALL faults on a full stack and pushes and jumps on any other (R135). -/
theorem execCall_cases (nnn : Addr12) (s : State) :
    (s.sp.val = 16 ∧ execCall nnn s = raise .stackOverflow (some (encode (.call nnn))) s) ∨
    (s.sp.val ≠ 16 ∧ execCall nnn s = goTo (zextAddr nnn) (s.push s.npc)) := by
  by_cases h : s.sp.val = 16
  · exact Or.inl ⟨h, if_pos h⟩
  · exact Or.inr ⟨h, if_neg h⟩

/-- LD Vx,K blocks with no key pressed and takes the lowest pressed one otherwise (R224). -/
theorem execLdVxK_cases (x : Nibble) (s : State) :
    (s.firstKey = none ∧ execLdVxK x s = goTo s.pc (s.setBlocked true)) ∨
    ∃ k, s.firstKey = some k ∧ execLdVxK x s = complete ((s.setV x (k.setWidth 8)).setBlocked false) := by
  cases h : s.firstKey with
  | none => exact Or.inl ⟨rfl, by simp only [execLdVxK, h]⟩
  | some k => exact Or.inr ⟨k, rfl, by simp only [execLdVxK, h]⟩

/-- The instructions that branch before they end are RET and CALL (on the stack), LD Vx,K (on the keys) and the four that
check a range; every other one ends in one jump. -/
theorem exists_exec_eq_next (i : Instr) (s : State) : ∃ t, exec i s = .next t := by
  cases i with
  | ret => rcases execRet_cases s with ⟨-, heq⟩ | ⟨-, heq⟩ <;> exact ⟨_, heq⟩
  | call nnn => rcases execCall_cases nnn s with ⟨-, heq⟩ | ⟨-, heq⟩ <;> exact ⟨_, heq⟩
  | ldVxK x => rcases execLdVxK_cases x s with ⟨-, heq⟩ | ⟨k, -, heq⟩ <;> exact ⟨_, heq⟩
  | drw x y n => exact exists_checkRange_eq_next ⟨_, rfl⟩
  | ldBVx x => exact exists_checkRange_eq_next ⟨_, rfl⟩
  | ldMemVx x => exact exists_checkRange_eq_next ⟨_, rfl⟩
  | ldVxMem x => exact exists_checkRange_eq_next ⟨_, rfl⟩
  | _ => exact ⟨_, rfl⟩

theorem exists_cycle_eq_next (s : State) : ∃ t, cycle s = .next t := by
  rcases cycle_cases s with ⟨-, heq⟩ | ⟨-, -, heq⟩ | ⟨-, -, -, heq⟩ | ⟨-, -, -, ⟨i, -, heq⟩ | ⟨-, heq⟩⟩
  · exact ⟨_, heq⟩
  · exact ⟨_, heq⟩
  · exact ⟨_, heq⟩
  · exact heq ▸ exists_exec_eq_next i s.closeLoad
  · exact ⟨_, heq⟩

/-! ### The cycle that fetches nothing (R106 steps 3 and 4) -/

theorem fetch_of_beyond_memory {s : State} (hf : s.fault = none) (hpc : 4095 ≤ s.pc.toNat) : fetch s = .outOfBounds := by
  have hbound : memSize - 1 < s.pc.toNat + 1 := by unfold memSize; omega
  simp only [fetch, hf, if_pos hbound]

theorem fetch_of_sentinel {s : State} (hf : s.fault = none) (hpc : s.pc.toNat < 4095)
    (hend : s.progEnd.toNat ≤ s.pc.toNat) : fetch s = .terminated := by
  have hbound : ¬ memSize - 1 < s.pc.toNat + 1 := by unfold memSize; omega
  simp only [fetch, hf, if_neg hbound, if_pos hend]

/-- Step 3 of R106: the record is written, so the cycle returns its cause. -/
theorem cycleStatus_of_beyond_memory {s t : State} (hf : s.fault = none) (hpc : 4095 ≤ s.pc.toNat)
    (hc : cycle s = .next t) : cycleStatus s t = .fault .outOfBounds := by
  rw [cycle, fetch_of_beyond_memory hf hpc] at hc
  rw [raise_next hc, cycleStatus]

/-- Step 4 of R106: no fault stands after the cycle, so the sentinel decides its status. -/
theorem cycleStatus_of_sentinel {s t : State} (hf : s.fault = none) (hpc : s.pc.toNat < 4095)
    (hend : s.progEnd.toNat ≤ s.pc.toNat) (hc : cycle s = .next t) : cycleStatus s t = .terminated := by
  have hfetch := fetch_of_sentinel hf hpc hend
  rw [cycle, hfetch] at hc
  obtain rfl : s.closeLoad = t := by injection hc
  simp only [cycleStatus, State.closeLoad_fault, hf, hfetch, statusOfFetched]

/-! ### CLS and JP (R132, R134, R204) -/

theorem cleanSurface_setFb_cleared (s : State) : CleanSurface (s.setFb Surface.cleared) := fun p => by
  simp [Surface.isLit, Surface.cleared]

theorem exec_cls (s : State) : exec .cls s = complete (s.setFb Surface.cleared) := rfl

theorem perform_surfaceReset (s : State) : perform .surfaceReset s = .next (s.setFb Surface.cleared) := rfl

theorem exec_jp (nnn : Addr12) (s : State) : exec (.jp nnn) s = .next (s.setPc (zextAddr nnn)) := rfl

@[simp] theorem zextAddr_toNat (nnn : Addr12) : (zextAddr nnn).toNat = nnn.toNat :=
  BitVec.toNat_setWidth_of_le (by decide)

end Machine

/-! ### The obligations -/

open Machine

/-- Settles O30: the jump sets the pc alone, and at its target the next cycle is out of bounds for 0xFFF, the one address
field beyond the last fetch address 4094, and meets the sentinel for another target at or beyond `prog_end`. -/
theorem jpGoesToItsAddress : Obligations.JpGoesToItsAddress := by
  intro nnn s
  obtain ⟨u, hu⟩ := exists_cycle_eq_next (s.setPc (zextAddr nnn))
  refine ⟨_, u, exec_jp nnn s, zextAddr_toNat nnn, rfl, hu, fun hf hnnn => ?_, fun hf hnnn hend => ?_⟩
  · exact cycleStatus_of_beyond_memory hf (by simp [hnnn]) hu
  · have hlast : nnn.toNat ≠ 4095 := fun h => hnnn (BitVec.eq_of_toNat_eq h)
    have hpc : nnn.toNat < 4095 := by omega
    exact cycleStatus_of_sentinel hf (by simpa using hpc) (by simpa using hend) hu

/-- Settles O25: CLS and the surface's external reset both put the cleared surface in the place of `fb`, and CLS then
completes. -/
theorem clsTurnsEveryPixelOff : Obligations.ClsTurnsEveryPixelOff := by
  constructor
  · exact fun s => ⟨_, exec_cls s, cleanSurface_setFb_cleared s, rfl⟩
  · exact fun s => ⟨_, perform_surfaceReset s, cleanSurface_setFb_cleared s, rfl⟩

end Sys2Proof
end

section
/-! Proofs of the skip family: a skip on a condition, and the skips on an immediate byte. -/

namespace Sys2Proof

namespace Machine

/-- A skip on a condition ends with the pc four bytes on where the condition holds, two where it fails (R150). -/
theorem exists_skipIf_decide_pcResult (p : Prop) [Decidable p] (s : State) :
    ∃ t, skipIf (decide p) s = .next t ∧ PcResult (if p then s.pc + 4#16 else s.pc + 2#16) s t := by
  refine ⟨_, skipIf_eq (decide p) s, ?_⟩
  simp only [PcResult, decide_eq_true_eq]

/-- SE Vx,kk is a skip on equality with the immediate byte (R151). -/
theorem exec_seImm (x : Nibble) (nn : Byte) (s : State) :
    exec (.seImm x nn) s = skipIf (decide (s.getV x = nn)) s := rfl

/-- SNE Vx,kk is a skip on inequality with it (R152). -/
theorem exec_sneImm (x : Nibble) (nn : Byte) (s : State) :
    exec (.sneImm x nn) s = skipIf (decide (s.getV x ≠ nn)) s := rfl

end Machine

/-! ### The obligations -/

open Machine

/-- Settles O32: SE Vx,kk is the skip on `V[x] = kk` and SNE Vx,kk the skip on its negation. -/
theorem skipOnImmediate : Obligations.SkipOnImmediate := by
  intro x nn s
  rw [exec_seImm, exec_sneImm]
  exact ⟨exists_skipIf_decide_pcResult _ s, exists_skipIf_decide_pcResult _ s⟩

end Sys2Proof
end

section
/-! Proofs of the load and add immediate family: the instruction that writes one register and completes. -/

namespace Sys2Proof

namespace Machine

/-- An instruction that writes `b` to `V[x]` and completes keeps every other register and all else, whichever `x` is
(R106). -/
theorem exists_complete_setV_regResult (x : Nibble) (b : Byte) (s : State) :
    ∃ t, complete (s.setV x b) = .next t ∧ RegResult x b s t := by
  refine ⟨(s.setV x b).setPc (s.pc + 2#16), rfl, ?written, fun z hz => ?kept, rfl, rfl⟩
  case written => rw [State.setPc_getV, State.getV_setV_same]
  case kept => rw [State.setPc_getV, State.getV_setV_other hz]

/-- LD Vx,kk writes the immediate byte (R161). -/
theorem exec_ldImm (x : Nibble) (nn : Byte) (s : State) : exec (.ldImm x nn) s = complete (s.setV x nn) := rfl

/-- ADD Vx,kk writes the sum with the immediate byte, and no flag (R162). -/
theorem exec_addImm (x : Nibble) (nn : Byte) (s : State) :
    exec (.addImm x nn) s = complete (s.setV x (s.getV x + nn)) := rfl

end Machine

/-! ### The obligations -/

open Machine

/-- Settles O35: LD Vx,kk is the write of `kk` to `V[x]`, and x = 0xF is no exception to it. -/
theorem loadImmediate : Obligations.LoadImmediate := by
  intro x nn s
  rw [exec_ldImm]
  exact exists_complete_setV_regResult x nn s

/-- Settles O36: ADD Vx,kk is the write of the byte sum to `V[x]`, and a byte sum is the sum modulo 256. -/
theorem addImmediate : Obligations.AddImmediate := by
  intro x nn s
  obtain ⟨t, hexec, hsum, hframe⟩ := exists_complete_setV_regResult x (s.getV x + nn) s
  refine ⟨t, exec_addImm x nn s ▸ hexec, ?_, rfl, hframe⟩
  rw [hsum, BitVec.toNat_add]

end Sys2Proof
end

section
/-! Proofs of the kind 8 family: the instructions that write a flag and a result, and those that write no flag. -/

namespace Sys2Proof

namespace Machine

/-- An instruction that writes a flag to VF, then a result to `V[x]`, and completes keeps every other register and all
else; where x is VF itself the result remains (R106, R170). -/
theorem exists_complete_setFlagThen_flagResult (flag result : Byte) (x : Nibble) (s : State) :
    ∃ t, complete (s.setFlagThen flag x result) = .next t ∧ FlagResult x flag result s t := by
  refine ⟨(s.setFlagThen flag x result).setPc (s.pc + 2#16), rfl, ?result, fun hx => ?flag, fun z hz hzf => ?kept,
    rfl, rfl⟩
  case result => rw [State.setPc_getV, State.getV_setFlagThen, if_pos rfl]
  case flag => rw [State.setPc_getV, State.getV_setFlagThen, if_neg hx.symm, vf, if_pos rfl]
  case kept => rw [State.setPc_getV, State.getV_setFlagThen, if_neg hz, vf, if_neg hzf]

/-- The carry of an addition is 1 exactly where the unwrapped sum exceeds 255 (R175). -/
theorem carryFlag_eq (a b : Byte) : carryFlag a b = if 255 < a.toNat + b.toNat then 1#8 else 0#8 := by
  simp only [carryFlag, flagByte, decide_eq_true_eq]

/-- LD Vx,Vy writes the other register (R171). -/
theorem exec_ldReg (x y : Nibble) (s : State) : exec (.ldReg x y) s = complete (s.setV x (s.getV y)) := rfl

/-- OR Vx,Vy writes the union of the bits, and no flag (R172). -/
theorem exec_orReg (x y : Nibble) (s : State) :
    exec (.orReg x y) s = complete (s.setV x (s.getV x ||| s.getV y)) := rfl

/-- AND Vx,Vy writes the common bits, and no flag (R173). -/
theorem exec_andReg (x y : Nibble) (s : State) :
    exec (.andReg x y) s = complete (s.setV x (s.getV x &&& s.getV y)) := rfl

/-- XOR Vx,Vy writes the bits that differ, and no flag (R174). -/
theorem exec_xorReg (x y : Nibble) (s : State) :
    exec (.xorReg x y) s = complete (s.setV x (s.getV x ^^^ s.getV y)) := rfl

/-- ADD Vx,Vy writes the carry, then the sum (R175). -/
theorem exec_addReg (x y : Nibble) (s : State) :
    exec (.addReg x y) s = complete (s.setFlagThen (carryFlag (s.getV x) (s.getV y)) x (s.getV x + s.getV y)) := rfl

end Machine

/-! ### The obligations -/

open Machine

/-- Settles O38: ADD Vx,Vy writes the carry and then the byte sum, which is the sum modulo 256. -/
theorem addRegisters : Obligations.AddRegisters := by
  intro x y s
  obtain ⟨t, hexec, hsum, hframe⟩ :=
    exists_complete_setFlagThen_flagResult (carryFlag (s.getV x) (s.getV y)) (s.getV x + s.getV y) x s
  rw [carryFlag_eq] at hframe
  refine ⟨t, exec_addReg x y s ▸ hexec, ?_, rfl, hframe⟩
  rw [hsum, BitVec.toNat_add]

/-- Settles O37: each of the four is one register write, and VF, where x is not VF, is among the registers kept. -/
theorem moveAndLogic : Obligations.MoveAndLogic := by
  intro x y s
  rw [exec_ldReg, exec_orReg, exec_andReg, exec_xorReg]
  exact ⟨exists_complete_setV_regResult x _ s, exists_complete_setV_regResult x _ s,
    exists_complete_setV_regResult x _ s, exists_complete_setV_regResult x _ s⟩

end Sys2Proof
end

section
/-! Proofs of the index family: LD I,addr. -/

namespace Sys2Proof

namespace Machine

/-- LD I,addr writes the address field, zero-extended (R191). -/
theorem exec_ldI (nnn : Addr12) (s : State) : exec (.ldI nnn) s = complete (s.setI (zextAddr nnn)) := rfl

end Machine

/-! ### The obligations -/

open Machine

/-- Settles O41: LD I,addr is the write of the zero-extended field to I, and the extension keeps the field's value. -/
theorem loadIndex : Obligations.LoadIndex := by
  intro nnn s
  rw [exec_ldI, complete_eq]
  exact ⟨_, rfl, zextAddr_toNat nnn, rfl⟩

end Sys2Proof
end

section
/-! Proofs of the timer family: the two instructions that read and write the delay timer. -/

namespace Sys2Proof

namespace Machine

/-- LD Vx,DT writes the delay timer to the register (R241). -/
theorem exec_ldVxDt (x : Nibble) (s : State) : exec (.ldVxDt x) s = complete (s.setV x s.dt) := rfl

/-- LD DT,Vx writes the register to the delay timer (R242). -/
theorem exec_ldDtVx (x : Nibble) (s : State) : exec (.ldDtVx x) s = complete (s.setDt (s.getV x)) := rfl

end Machine

/-! ### The obligations -/

open Machine

/-- Settles O48: LD Vx,DT is the write of DT to `V[x]`, and DT is among what such a write keeps. -/
theorem readDelayTimer : Obligations.ReadDelayTimer := by
  intro x s
  rw [exec_ldVxDt]
  exact exists_complete_setV_regResult x s.dt s

/-- Settles O49: LD DT,Vx is the write of `V[x]` to DT, whatever the byte, and it then completes. -/
theorem writeDelayTimer : Obligations.WriteDelayTimer := by
  intro x s
  rw [exec_ldDtVx, complete_eq]
  rfl

end Sys2Proof
end

section
/-! Proofs of the encoding family: the decoder reads back every well-formed instruction, the encoder every legal word, and
the decoder agrees with the opcode map and with the table of illegal words. -/

namespace Sys2Proof

/-! ### Decoding an encoded instruction (R104) -/

/-- The fields of an instruction's word select its own row of the decoder; only for SYS do the two rows tried before it
have to be excluded. -/
theorem decodeWord_encode {i : Instr} (hwf : i.wf = true) : decodeWord (encode i) = some i := by
  cases i with
  | sys nnn =>
    simp only [Instr.wf, sysAddrOk, Bool.and_eq_true, bne_iff_ne] at hwf
    simp [encode, decodeWord, decodeKind0, hwf]
  | cls | ret => rfl
  | _ => simp [encode, decodeWord, decodeKind5, decodeKind8, decodeKind9, decodeKindE, decodeKindF]

/-- The decoder reads a word laid out high byte first as the word itself (R71). -/
theorem decodeBytes_halves (w : Word) (rest : List Byte) {i : Instr} (h : decodeWord w = some i) :
    decodeBytes ([w.extractLsb' 8 8, w.extractLsb' 0 8] ++ rest) = .ok (i, rest) := by
  simp [decodeBytes, wordOfBytes_halves, h]

/-! ### Encoding a decoded word (R104) -/

/-- A word is fixed by kind, x, y and the low nibble. -/
theorem word4_of_fields {w : Word} {k n : Nibble} (hk : kind w = k) (hn : (fieldN w).toNat = n.toNat) :
    word4 k (fieldX w) (fieldY w) n = w := by
  rw [← hk, ← BitVec.eq_of_toNat_eq hn, word4_fields]

/-- A word is fixed by kind, x and the low byte. -/
theorem wordXNN_of_fields {w : Word} {k : Nibble} {nn : Byte} (hk : kind w = k) (hnn : (fieldNN w).toNat = nn.toNat) :
    wordXNN k (fieldX w) nn = w := by
  rw [← hk, ← BitVec.eq_of_toNat_eq hnn, wordXNN_fields]

/-- A word is fixed by kind and the address field. -/
theorem wordNNN_of_fields {w : Word} {k : Nibble} {a : Addr12} (hk : kind w = k) (ha : fieldNNN w = a) :
    wordNNN k a = w := by
  rw [← hk, ← ha, wordNNN_fields]

theorem encode_of_decodeKind0 {w : Word} {i : Instr} (hk : kind w = 0x0#4) (h : decodeKind0 w = some i) :
    encode i = w ∧ i.wf = true := by
  unfold decodeKind0 at h
  split at h
  · next ha => cases h; exact ⟨wordNNN_of_fields hk ha, rfl⟩
  · next hcls =>
    split at h
    · next ha => cases h; exact ⟨wordNNN_of_fields hk ha, rfl⟩
    · next hret => cases h; exact ⟨wordNNN_of_fields hk rfl, by simp [Instr.wf, sysAddrOk, hcls, hret]⟩

theorem encode_of_decodeKind5 {w : Word} {i : Instr} (hk : kind w = 0x5#4) (h : decodeKind5 w = some i) :
    encode i = w ∧ i.wf = true := by
  unfold decodeKind5 at h
  split at h <;> cases h
  next hn => exact ⟨word4_of_fields hk (congrArg BitVec.toNat hn), rfl⟩

theorem encode_of_decodeKind8 {w : Word} {i : Instr} (hk : kind w = 0x8#4) (h : decodeKind8 w = some i) :
    encode i = w ∧ i.wf = true := by
  unfold decodeKind8 at h
  split at h <;> cases h <;> next hn => exact ⟨word4_of_fields hk hn, rfl⟩

theorem encode_of_decodeKind9 {w : Word} {i : Instr} (hk : kind w = 0x9#4) (h : decodeKind9 w = some i) :
    encode i = w ∧ i.wf = true := by
  unfold decodeKind9 at h
  split at h <;> cases h
  next hn => exact ⟨word4_of_fields hk (congrArg BitVec.toNat hn), rfl⟩

theorem encode_of_decodeKindE {w : Word} {i : Instr} (hk : kind w = 0xE#4) (h : decodeKindE w = some i) :
    encode i = w ∧ i.wf = true := by
  unfold decodeKindE at h
  split at h <;> cases h <;> next hnn => exact ⟨wordXNN_of_fields hk hnn, rfl⟩

theorem encode_of_decodeKindF {w : Word} {i : Instr} (hk : kind w = 0xF#4) (h : decodeKindF w = some i) :
    encode i = w ∧ i.wf = true := by
  unfold decodeKindF at h
  split at h <;> cases h <;> next hnn => exact ⟨wordXNN_of_fields hk hnn, rfl⟩

/-- A word that selects an instruction is the word of that instruction, which is well formed: kind by kind, the group
kinds by their own selection. -/
theorem encode_of_decodeWord {w : Word} {i : Instr} (h : decodeWord w = some i) : encode i = w ∧ i.wf = true := by
  have hkind {n : Nat} (hn : (kind w).toNat = n) : kind w = BitVec.ofNat 4 n := by rw [← hn, BitVec.ofNat_toNat]; simp
  unfold decodeWord at h
  split at h
  -- `h_n` is the n-th arm of the decoder: kind n - 1, and `h_17` the arm of no kind
  case h_1 hk => exact encode_of_decodeKind0 (hkind hk) h
  case h_6 hk => exact encode_of_decodeKind5 (hkind hk) h
  case h_9 hk => exact encode_of_decodeKind8 (hkind hk) h
  case h_10 hk => exact encode_of_decodeKind9 (hkind hk) h
  case h_15 hk => exact encode_of_decodeKindE (hkind hk) h
  case h_16 hk => exact encode_of_decodeKindF (hkind hk) h
  case h_17 => cases h
  case h_2 hk | h_3 hk | h_11 hk | h_12 hk => cases h; exact ⟨wordNNN_of_fields (hkind hk) rfl, rfl⟩
  case h_4 hk | h_5 hk | h_7 hk | h_8 hk | h_13 hk => cases h; exact ⟨wordXNN_of_fields (hkind hk) rfl, rfl⟩
  case h_14 hk => cases h; exact ⟨word4_of_fields (hkind hk) rfl, rfl⟩

/-! ### Illegal words (R108) -/

theorem decodeKind0_ne_none (w : Word) : decodeKind0 w ≠ none := by
  unfold decodeKind0
  split
  · simp
  · split <;> simp

theorem decodeKind5_eq_none_iff (w : Word) : decodeKind5 w = none ↔ fieldN w ≠ 0#4 := by
  simp [decodeKind5]

theorem decodeKind9_eq_none_iff (w : Word) : decodeKind9 w = none ↔ fieldN w ≠ 0#4 := by
  simp [decodeKind9]

theorem decodeKind8_eq_none_iff (w : Word) :
    decodeKind8 w = none ↔ fieldN w ∈ [0x8#4, 0x9#4, 0xA#4, 0xB#4, 0xC#4, 0xD#4, 0xF#4] := by
  unfold decodeKind8
  simp only [List.mem_cons, List.not_mem_nil, or_false, ← BitVec.toNat_inj]
  split <;> simp_all
  omega

theorem decodeKindE_eq_none_iff (w : Word) : decodeKindE w = none ↔ fieldNN w ∉ [0x9E#8, 0xA1#8] := by
  unfold decodeKindE
  simp only [List.mem_cons, List.not_mem_nil, or_false, ← BitVec.toNat_inj]
  split <;> simp_all

theorem decodeKindF_eq_none_iff (w : Word) : decodeKindF w = none ↔
    fieldNN w ∉ [0x07#8, 0x0A#8, 0x15#8, 0x18#8, 0x1E#8, 0x29#8, 0x33#8, 0x55#8, 0x65#8] := by
  unfold decodeKindF
  simp only [List.mem_cons, List.not_mem_nil, or_false, ← BitVec.toNat_inj]
  split <;> simp_all

/-- Only the group kinds hold illegal words. -/
theorem decodeWord_eq_none_iff (w : Word) : decodeWord w = none ↔
    (kind w = 0x5#4 ∧ decodeKind5 w = none) ∨ (kind w = 0x8#4 ∧ decodeKind8 w = none) ∨
    (kind w = 0x9#4 ∧ decodeKind9 w = none) ∨ (kind w = 0xE#4 ∧ decodeKindE w = none) ∨
    (kind w = 0xF#4 ∧ decodeKindF w = none) := by
  unfold decodeWord
  simp only [← BitVec.toNat_inj]
  split <;> simp_all [decodeKind0_ne_none]
  omega

/-! ### The opcode map (R104) -/

/-- What a row that fits says of the word's fields, for the four masks of the map. -/
theorem fields_of_mask {w mask value : Word} (h : w &&& mask = value) :
    (mask = 0xFFFF#16 → w = value) ∧ (mask = 0xF000#16 → kind w = kind value) ∧
    (mask = 0xF00F#16 → kind w = kind value ∧ fieldN w = fieldN value) ∧
    (mask = 0xF0FF#16 → kind w = kind value ∧ fieldNN w = fieldNN value) := by
  subst h
  refine ⟨?_, ?_, ?_, ?_⟩
  · rintro rfl; exact (BitVec.and_allOnes (x := w)).symm
  · rintro rfl; rw [← word4_fields w, word4_mask_F000]; simp
  · rintro rfl; rw [← word4_fields w, word4_mask_F00F]; simp
  · rintro rfl; rw [← wordXNN_fields w, wordXNN_mask_F0FF]; simp

theorem opcodeRowOf_lt (i : Instr) : opcodeRowOf i < opcodeRows.length := by
  cases i <;> simp [opcodeRowOf, opcodeRows]

/-- The word of an instruction fits the instruction's own row. -/
theorem encode_fits_own_row (i : Instr) : Laws.OpcodeRow.Statement i :=
  open Laws.OpcodeRow in
  match i with
  | .cls => cls
  | .ret => ret
  | .sys a => sys a
  | .jp a => jp a
  | .call a => call a
  | .seImm x nn => seImm x nn
  | .sneImm x nn => sneImm x nn
  | .seReg x y => seReg x y
  | .ldImm x nn => ldImm x nn
  | .addImm x nn => addImm x nn
  | .ldReg x y => ldReg x y
  | .orReg x y => orReg x y
  | .andReg x y => andReg x y
  | .xorReg x y => xorReg x y
  | .addReg x y => addReg x y
  | .subReg x y => subReg x y
  | .shr x y => shr x y
  | .subnReg x y => subnReg x y
  | .shl x y => shl x y
  | .sneReg x y => sneReg x y
  | .ldI a => ldI a
  | .jpV0 a => jpV0 a
  | .rnd x nn => rnd x nn
  | .drw x y n => drw x y n
  | .skp x => skp x
  | .sknp x => sknp x
  | .ldVxDt x => ldVxDt x
  | .ldVxK x => ldVxK x
  | .ldDtVx x => ldDtVx x
  | .ldStVx x => ldStVx x
  | .addIVx x => addIVx x
  | .ldFVx x => ldFVx x
  | .ldBVx x => ldBVx x
  | .ldMemVx x => ldMemVx x
  | .ldVxMem x => ldVxMem x

/-- A row that fits does not stand before the row the decoder selects: it is that row, but for the two words of kind 0
that the SYS row fits too. -/
theorem decodeWord_row_le_of_fits {w : Word} {j : Nat} {mask value : Word} (hj : opcodeRows[j]? = some (mask, value))
    (hfit : w &&& mask = value) : ∃ r, (decodeWord w).map opcodeRowOf = some r ∧ r ≤ j := by
  have hlen : j < 35 := (List.getElem?_eq_some_iff.mp hj).1
  have hfields := fields_of_mask hfit
  clear hfit
  interval_cases j <;> cases hj <;> simp [kind, fieldN, fieldNN] at hfields
  · subst hfields; decide
  · subst hfields; decide
  · rw [decodeWord_of_kind_zero hfields, decodeKind0]
    split
    · exact ⟨0, rfl, by decide⟩
    · split
      · exact ⟨1, rfl, by decide⟩
      · exact ⟨2, rfl, by decide⟩
  all_goals
    simp [decodeWord, decodeKind5, decodeKind8, decodeKind9, decodeKindE, decodeKindF, kind, fieldN, fieldNN, hfields,
      opcodeRowOf]

/-! ### The obligations -/

/-- Settles O2: the word by its fields, and the bytes of the word by its halves. -/
theorem decodeOfEncode : Obligations.DecodeOfEncode := fun i rest hwf =>
  ⟨decodeWord_encode hwf, decodeBytes_halves (encode i) rest (decodeWord_encode hwf)⟩

/-- Settles O3, kind by kind. -/
theorem encodeOfDecode : Obligations.EncodeOfDecode := fun _ _ h => encode_of_decodeWord h

/-- Settles O4: the selected instruction's row fits, for the word is that of the instruction, and no row before it does;
and where some row fits an instruction is selected. -/
theorem decoderAgreesWithOpcodeMap : Obligations.DecoderAgreesWithOpcodeMap := by
  intro w
  cases hd : decodeWord w with
  | none =>
    refine (List.findIdx?_eq_none_iff.mpr fun row hrow => decide_eq_false fun hfit => ?_).symm
    obtain ⟨j, hj⟩ := List.mem_iff_getElem?.mp hrow
    obtain ⟨r, hr, -⟩ := decodeWord_row_le_of_fits hj hfit
    simp [hd] at hr
  | some i =>
    have hlen := opcodeRowOf_lt i
    refine (List.findIdx?_eq_some_iff_getElem.mpr ⟨hlen, decide_eq_true ?fits, fun j hj => ?first⟩).symm
    case fits =>
      rw [← (encode_of_decodeWord hd).1]
      exact encode_fits_own_row i _ _ (List.getElem?_eq_getElem hlen)
    case first =>
      intro hfit
      obtain ⟨r, hr, hle⟩ := decodeWord_row_le_of_fits (List.getElem?_eq_getElem (hj.trans hlen)) (of_decide_eq_true hfit)
      obtain rfl : opcodeRowOf i = r := by simpa [hd] using hr
      omega

/-- Settles O5: kinds 5, 8, 9, E and F are the group kinds, each with the second fields its own selection knows. -/
theorem illegalWordsAreExactly : Obligations.IllegalWordsAreExactly := by
  intro w
  rw [decodeWord_eq_none_iff, decodeKind5_eq_none_iff, decodeKind8_eq_none_iff, decodeKind9_eq_none_iff,
    decodeKindE_eq_none_iff, decodeKindF_eq_none_iff]

/-- Settles O7: the decoder, run on the ten words. -/
theorem specWordsDecode : Obligations.SpecWordsDecode := by
  unfold Obligations.SpecWordsDecode
  decide

end Sys2Proof
end

section
/-! Proofs of the memory family: the fetched word and the bytes stored before it, and the canonical form as the only one
with its reads. -/

namespace Sys2Proof

namespace Machine

/-- The word read at `a` as the number of its two bytes (R71). -/
theorem Memory.read16_toNat (m : Memory) (a : Nat) :
    (m.read16 a).toNat = (m.read a).toNat * 256 + (m.read (a + 1)).toNat := wordOfBytes_toNat _ _

theorem Memory.read_cons (k : Nat) (b : Byte) (rest : Memory) (a : Nat) :
    Memory.read ((k, b) :: rest) a = if a = k then b else Memory.read rest a := rfl

/-- What the canonical form says of its first cell and of the rest. -/
theorem Memory.wfFrom_cons {low k : Nat} {b : Byte} {rest : Memory} :
    Memory.wfFrom low ((k, b) :: rest) = true ↔
      low ≤ k ∧ k < memSize ∧ b ≠ resetByte k ∧ Memory.wfFrom (k + 1) rest = true := by
  simp [Memory.wfFrom, and_assoc]

/-- The first cell of a canonical memory is where its reads first differ from the reset contents, so a canonical memory
that reads alike has no lower first cell. -/
theorem Memory.first_cell_le {low low' k k' : Nat} {b b' : Byte} {rest rest' : Memory}
    (h : Memory.wfFrom low ((k, b) :: rest) = true) (h' : Memory.wfFrom low' ((k', b') :: rest') = true)
    (hread : ∀ a, Memory.read ((k, b) :: rest) a = Memory.read ((k', b') :: rest') a) : k' ≤ k := by
  obtain ⟨-, -, hb, -⟩ := Memory.wfFrom_cons.mp h
  obtain ⟨-, hk', hb', hrest'⟩ := Memory.wfFrom_cons.mp h'
  by_contra hlt
  have hbelow : Memory.wfFrom k' ((k', b') :: rest') = true := Memory.wfFrom_cons.mpr ⟨le_rfl, hk', hb', hrest'⟩
  have hk := hread k
  rw [Memory.read_cons, if_pos rfl, Memory.read_below hbelow (by omega)] at hk
  exact hb hk

/-- Canonical memories that read alike are equal, cell by cell. -/
theorem Memory.eq_of_read_eq {m m' : Memory} {low low' : Nat} (h : Memory.wfFrom low m = true)
    (h' : Memory.wfFrom low' m' = true) (hread : ∀ a, m.read a = m'.read a) : m = m' := by
  induction m generalizing m' low low' with
  | nil =>
    cases m' with
    | nil => rfl
    | cons cell' rest' =>
      obtain ⟨k', b'⟩ := cell'
      obtain ⟨-, -, hb', -⟩ := Memory.wfFrom_cons.mp h'
      have hk' := hread k'
      rw [Memory.read_cons, if_pos rfl] at hk'
      exact absurd hk'.symm hb'
  | cons cell rest ih =>
    obtain ⟨k, b⟩ := cell
    obtain ⟨-, -, hb, hrest⟩ := Memory.wfFrom_cons.mp h
    cases m' with
    | nil =>
      have hk := hread k
      rw [Memory.read_cons, if_pos rfl] at hk
      exact absurd hk hb
    | cons cell' rest' =>
      obtain ⟨k', b'⟩ := cell'
      obtain ⟨-, -, -, hrest'⟩ := Memory.wfFrom_cons.mp h'
      obtain rfl : k = k' :=
        le_antisymm (Memory.first_cell_le h' h fun a => (hread a).symm) (Memory.first_cell_le h h' hread)
      obtain rfl : b = b' := by simpa [Memory.read_cons] using hread k
      refine congrArg _ (ih hrest hrest' fun a => ?_)
      by_cases ha : a = k
      · rw [ha, Memory.read_below hrest (Nat.lt_succ_self k), Memory.read_below hrest' (Nat.lt_succ_self k)]
      · simpa [Memory.read_cons, ha] using hread a

end Machine

/-! ### The obligations -/

open Machine

/-- Settles O8: the fetched word is `hi*256+lo` (R71). -/
theorem fetchIsBigEndian : Obligations.FetchIsBigEndian := Memory.read16_toNat

/-- Settles O9: the two bytes stored read back, and the fetched word is made of these reads. -/
theorem fetchSeesStores : Obligations.FetchSeesStores := by
  intro m a hi lo hwf ha
  have hin : a + [hi, lo].length ≤ memSize := ha
  have hhi : (m.writeBlock a [hi, lo]).read (a + 0) = hi := Memory.read_writeBlock_inside hwf hin rfl
  have hlo : (m.writeBlock a [hi, lo]).read (a + 1) = lo := Memory.read_writeBlock_inside hwf hin rfl
  rw [Nat.add_zero] at hhi
  rw [Memory.read16_toNat, hhi, hlo]

/-- Settles O21: `Memory.wf` is the canonical form for cells from address 0 on. -/
theorem canonicalMemoryIsItsReads : Obligations.CanonicalMemoryIsItsReads := fun _ _ h h' hread =>
  Memory.eq_of_read_eq h h' hread

end Sys2Proof
end

section
/-! Proofs of the whole-machine family: everything an instruction can do, said once, and the rules on faults, on VF and on
the writers of each part that follow from it. -/

namespace Sys2Proof

namespace Machine

/-! ### Everything an instruction can do -/

/-- Where control goes when an instruction completes: past it, past the next one too, or to an address no greater than R36
allows. -/
def NextPc (s : State) (pc : Word) : Prop := pc = s.pc + 2#16 ∨ pc = s.pc + 4#16 ∨ pc.toNat ≤ 0x10FE

/-- The fault an instruction raises, with its condition (R73, R133, R135). -/
def MayFault (i : Instr) (s : State) (c : Fault) : Prop :=
  (c = .stackOverflow ∧ s.sp.val = 16 ∧ ∃ nnn, i = .call nnn) ∨
  (c = .stackUnderflow ∧ s.sp.val = 0 ∧ i = .ret) ∨
  (c = .outOfBounds ∧
    ((∃ x y n, i = .drw x y n ∧ 4096 < s.i.toNat + n.toNat) ∨
     (∃ x, i = .ldBVx x ∧ 4096 < s.i.toNat + 3) ∨
     (∃ x, (i = .ldMemVx x ∨ i = .ldVxMem x) ∧ 4096 < s.i.toNat + x.toNat + 1)))

/-- VF is as it was, unless the instruction writes it as a flag or as its destination (R32). -/
def KeepsVF (i : Instr) (s t : State) : Prop :=
  writesFlag i = false → destReg i ≠ some 0xF#4 → t.getV 0xF#4 = s.getV 0xF#4

/-- `Effect s i t`: `t` is what `i` can leave of `s`. Each case names the parts it writes and says of them what the
invariant and the rules on VF need; all else is that of `s`. -/
inductive Effect (s : State) : Instr → State → Prop where
  | fault {i : Instr} {c : Fault} (hc : MayFault i s c) :
      Effect s i { s with fault := some { cause := c, pc := s.pc, opcode := some (encode i) } }
  | registers {i : Instr} {v : Vector Byte 16} {pc : Word} (hi : ∀ x, i ≠ .ldVxK x)
      (hv : KeepsVF i s { s with v := v }) (hpc : NextPc s pc) : Effect s i { s with v := v, pc := pc }
  | random {x : Nibble} {nn : Byte} {v : Vector Byte 16} (hv : KeepsVF (.rnd x nn) s { s with v := v }) :
      Effect s (.rnd x nn) { s with v := v, rndCount := s.rndCount + 1, pc := s.pc + 2#16 }
  | index {i : Instr} {a : Word} (hi : (∃ nnn, i = .ldI nnn) ∨ ∃ x, i = .addIVx x ∨ i = .ldFVx x) :
      Effect s i { s with i := a, pc := s.pc + 2#16 }
  | memory {i : Instr} {m : Memory} (hi : ∃ x, i = .ldBVx x ∨ i = .ldMemVx x) (hm : s.mem.wf = true → m.wf = true) :
      Effect s i { s with mem := m, pc := s.pc + 2#16 }
  | delayTimer {x : Nibble} {b : Byte} : Effect s (.ldDtVx x) { s with dt := b, pc := s.pc + 2#16 }
  | soundTimer {x : Nibble} {b : Byte} : Effect s (.ldStVx x) { s with st := b, pc := s.pc + 2#16 }
  | clear : Effect s .cls { s with fb := Surface.cleared, pc := s.pc + 2#16 }
  | draw {x y n : Nibble} {fb : Surface} {v : Vector Byte 16}
      (hfb : s.fb.wf dispW dispH = true → fb.wf dispW dispH = true) :
      Effect s (.drw x y n) { s with fb := fb, v := v, pc := s.pc + 2#16 }
  | ret (hsp : s.sp.val ≠ 0) : Effect s .ret (s.pop.setPc s.top)
  | call {nnn : Addr12} (hsp : s.sp.val ≠ 16) : Effect s (.call nnn) ((s.push s.npc).setPc (zextAddr nnn))
  | wait {x : Nibble} : Effect s (.ldVxK x) { s with blocked := true }
  | key {x : Nibble} {v : Vector Byte 16} (hv : KeepsVF (.ldVxK x) s { s with v := v }) :
      Effect s (.ldVxK x) { s with v := v, blocked := false, pc := s.pc + 2#16 }

/-! ### The shapes instructions share -/

/-- Only VF is read off a register write to another register. -/
theorem keepsVF_setV {i : Instr} {x : Nibble} (hd : destReg i = some x) (s : State) (b : Byte) :
    KeepsVF i s (s.setV x b) := fun _ hne =>
  State.getV_setV_other fun hx => hne (hx ▸ hd)

theorem effect_goTo {i : Instr} {s t : State} {a : Word} (hi : ∀ x, i ≠ .ldVxK x) (ha : NextPc s a)
    (h : goTo a s = .next t) : Effect s i t := by
  rw [goTo_next h]
  exact .registers hi (fun _ _ => rfl) ha

theorem effect_skipIf {i : Instr} {s t : State} {c : Bool} (hi : ∀ x, i ≠ .ldVxK x) (h : skipIf c s = .next t) :
    Effect s i t := by
  rw [skipIf_next h]
  refine .registers hi (fun _ _ => rfl) ?_
  cases c
  · exact Or.inl rfl
  · exact Or.inr (Or.inl rfl)

theorem effect_setV {i : Instr} {x : Nibble} {b : Byte} {s t : State} (hd : destReg i = some x) (hi : ∀ x, i ≠ .ldVxK x)
    (h : complete (s.setV x b) = .next t) : Effect s i t := by
  rw [complete_next h]
  exact .registers hi (keepsVF_setV hd s b) (Or.inl rfl)

theorem effect_setFlagThen {i : Instr} {x : Nibble} {flag b : Byte} {s t : State} (hf : writesFlag i = true)
    (hi : ∀ x, i ≠ .ldVxK x) (h : complete (s.setFlagThen flag x b) = .next t) : Effect s i t := by
  rw [complete_next h]
  exact .registers hi (fun hnot => absurd hnot (by simp [hf])) (Or.inl rfl)

/-- An access either faults or ends as it does inside memory. -/
theorem effect_checkRange {i : Instr} {s t u : State} {start count : Nat}
    (h : checkRange start count i s (.next u) = .next t) (hfault : 4096 < start + count → MayFault i s .outOfBounds)
    (hok : count = 0 ∨ start + count ≤ 4096 → Effect s i u) : Effect s i t := by
  rcases checkRange_cases start count i s (.next u) with ⟨-, hbeyond, heq⟩ | ⟨hin, heq⟩
  · rw [raise_next (heq.symm.trans h)]
    exact .fault (hfault hbeyond)
  · cases heq.symm.trans h
    exact hok hin

/-! ### The target of JP V0 and the blocks of bytes -/

@[simp] theorem zextByte_toNat (b : Byte) : (zextByte b).toNat = b.toNat := BitVec.toNat_setWidth_of_le (by decide)

/-- The sum of JP V0 does not wrap (R192). -/
theorem jpV0_target_toNat (nnn : Addr12) (b : Byte) : (zextAddr nnn + zextByte b).toNat = nnn.toNat + b.toNat := by
  rw [BitVec.toNat_add, zextAddr_toNat, zextByte_toNat]
  omega

@[simp] theorem length_bcdDigits (b : Byte) : (bcdDigits b).length = 3 := rfl

@[simp] theorem length_regBlock (s : State) (x : Nibble) : (s.regBlock x).length = x.toNat + 1 := by
  simp [State.regBlock, blockLen]

/-- A block loaded below VF leaves VF alone (R248). -/
theorem keepsVF_setRegs (s : State) (x : Nibble) (bytes : List Byte) (hlen : bytes.length = x.toNat + 1) :
    KeepsVF (.ldVxMem x) s (s.setRegs 0 bytes) := fun _ hne => by
  have hx : x.toNat ≠ 15 := fun h => hne (congrArg some (BitVec.eq_of_toNat_eq h))
  rw [State.getV_setRegs _ _ _ _ (by omega), if_pos (Nat.zero_le _), List.getElem?_eq_none (by rw [hlen]; simp; omega)]
  rfl

/-! ### The instructions -/

theorem exec_effect {i : Instr} {s t : State} (h : exec i s = .next t) : Effect s i t := by
  cases i with
  | cls => rw [complete_next h]; exact .clear
  | ret =>
    rcases execRet_cases s with ⟨hsp, heq⟩ | ⟨hsp, heq⟩
    · rw [raise_next (heq.symm.trans h)]; exact .fault (Or.inr (Or.inl ⟨rfl, hsp, rfl⟩))
    · rw [goTo_next (heq.symm.trans h)]; exact .ret hsp
  | sys nnn => exact effect_goTo nofun (Or.inl rfl) h
  | jp nnn => exact effect_goTo nofun (Or.inr (Or.inr (by simp; omega))) h
  | call nnn =>
    rcases execCall_cases nnn s with ⟨hsp, heq⟩ | ⟨hsp, heq⟩
    · rw [raise_next (heq.symm.trans h)]; exact .fault (Or.inl ⟨rfl, hsp, nnn, rfl⟩)
    · rw [goTo_next (heq.symm.trans h)]; exact .call hsp
  | jpV0 nnn => exact effect_goTo nofun (Or.inr (Or.inr (by rw [jpV0_target_toNat]; omega))) h
  | seImm x nn | sneImm x nn | seReg x y | sneReg x y | skp x | sknp x => exact effect_skipIf nofun h
  | ldImm x nn | addImm x nn | ldReg x y | orReg x y | andReg x y | xorReg x y | ldVxDt x => exact effect_setV rfl nofun h
  | addReg x y | subReg x y | shr x y | subnReg x y | shl x y => exact effect_setFlagThen rfl nofun h
  | rnd x nn => rw [complete_next h]; exact .random (keepsVF_setV rfl s _)
  | ldI nnn => rw [complete_next h]; exact .index (Or.inl ⟨nnn, rfl⟩)
  | addIVx x => rw [complete_next h]; exact .index (Or.inr ⟨x, Or.inl rfl⟩)
  | ldFVx x => rw [complete_next h]; exact .index (Or.inr ⟨x, Or.inr rfl⟩)
  | ldDtVx x => rw [complete_next h]; exact .delayTimer
  | ldStVx x => rw [complete_next h]; exact .soundTimer
  | drw x y n =>
    refine effect_checkRange h (fun hn => Or.inr (Or.inr ⟨rfl, Or.inl ⟨x, y, n, rfl, hn⟩⟩)) fun _ => ?_
    exact .draw (Surface.wf_drawSprite (Nat.succ_pos _) (Nat.succ_pos _) _ _ _)
  | ldBVx x =>
    refine effect_checkRange h (fun hn => Or.inr (Or.inr ⟨rfl, Or.inr (Or.inl ⟨x, rfl, hn⟩)⟩)) fun hin => ?_
    exact .memory ⟨x, Or.inl rfl⟩ fun hwf => Memory.wf_writeBlock hwf (by rw [length_bcdDigits, memSize]; omega)
  | ldMemVx x =>
    refine effect_checkRange h (fun hn => Or.inr (Or.inr ⟨rfl, Or.inr (Or.inr ⟨x, Or.inl rfl, hn⟩)⟩)) fun hin => ?_
    exact .memory ⟨x, Or.inr rfl⟩ fun hwf =>
      Memory.wf_writeBlock hwf (by rw [length_regBlock, memSize]; unfold blockLen at hin; omega)
  | ldVxMem x =>
    refine effect_checkRange h (fun hn => Or.inr (Or.inr ⟨rfl, Or.inr (Or.inr ⟨x, Or.inr rfl, hn⟩)⟩)) fun _ => ?_
    have hkeeps := keepsVF_setRegs s x _ (Memory.length_readBlock s.mem s.base (blockLen x))
    rw [State.setRegs_frame] at hkeeps ⊢
    exact .registers nofun hkeeps (Or.inl rfl)
  | ldVxK x =>
    rcases execLdVxK_cases x s with ⟨-, heq⟩ | ⟨k, -, heq⟩
    · rw [goTo_next (heq.symm.trans h)]; exact .wait
    · rw [complete_next (heq.symm.trans h)]; exact .key (keepsVF_setV rfl s _)

end Machine

/-! ### The obligations -/

open Machine

/-- Settles O17: the one effect that leaves a fault where there was none is the fault, and it writes the record alone. -/
theorem faultingInstructionCommitsNothing : Obligations.FaultingInstructionCommitsNothing := by
  intro i s t f hs h ht
  cases exec_effect h with
  | fault hc => cases ht; rfl
  | _ => exact absurd (hs.symm.trans ht) nofun

/-- Settles O18: the one effect that leaves a fault where there was none carries its condition. -/
theorem eachFaultHasItsInstruction : Obligations.EachFaultHasItsInstruction := by
  intro i s t f hs h ht
  cases exec_effect h with
  | fault hc => cases ht; exact hc
  | _ => exact absurd (hs.symm.trans ht) nofun

/-- Settles O19: an effect that writes V says when it keeps VF, the draw is one of the six, and the others write no
register. -/
theorem onlySixInstructionsWriteVFAsAFlag : Obligations.OnlySixInstructionsWriteVFAsAFlag := by
  intro i s t h hflag hdest
  cases exec_effect h with
  | registers _ hv _ | random hv | key hv => exact hv hflag hdest
  | draw _ => cases hflag
  | _ => rfl

/-- Settles O20: an effect writes the parts of its own instructions, which the premise on such a part excludes. -/
theorem eachPartHasItsOwnWriters : Obligations.EachPartHasItsOwnWriters := by
  intro i s t h
  cases exec_effect h with
  | index hi => rcases hi with ⟨nnn, rfl⟩ | ⟨x, rfl | rfl⟩ <;> simp
  | memory hi _ => obtain ⟨x, rfl | rfl⟩ := hi <;> simp
  | _ => simp

end Sys2Proof
end

section
/-! Proofs of the invariant: it holds after reset, and every operation of the host, and every instruction a cycle runs,
keeps it. -/

namespace Sys2Proof

namespace Machine

/-! ### Fresh states (R312) -/

/-- A fresh state, field by field. -/
theorem State.fresh_iff (s : State) : s.fresh ↔
    s.mem = [] ∧ s.v = Vector.replicate 16 0#8 ∧ s.i = 0#16 ∧ s.pc = 0x200#16 ∧ s.sp = 0 ∧ s.dt = 0#8 ∧ s.st = 0#8 ∧
    s.blocked = false ∧ s.fault = none ∧ s.progEnd = 0x200#13 ∧ s.loadOpen = true := by
  cases s
  simp [State.fresh, State.reset]

/-- A fresh state with a canonical surface meets the invariant. -/
theorem inv_of_fresh {s : State} (hs : s.fresh) (hfb : s.fb.wf dispW dispH = true) : Inv s := by
  have hfresh := hs
  obtain ⟨hmem, -, -, hpc, hsp, -, -, hblocked, hfault, hend, -⟩ := (State.fresh_iff s).mp hs
  exact {
    mem := by rw [hmem]; rfl
    surface := hfb
    progEnd := by rw [hend]; decide
    pc := by rw [hpc]; decide
    stack := fun j hj => by rw [hsp] at hj; exact absurd hj (Nat.not_lt_zero j)
    blocked := fun h => by rw [hblocked] at h; cases h
    fault := fun f h => by rw [hfault] at h; cases h
    loadOpen := fun _ => hs }

theorem inv_reset : Inv State.reset := inv_of_fresh rfl rfl

/-! ### The operations that leave the engine alone -/

/-- Taking an operation off changes nothing the invariant speaks of. -/
theorem Inv.dequeue {s : State} (h : Inv s) : Inv s.dequeue :=
  { h with loadOpen := fun hl => (State.fresh_iff _).mpr ((State.fresh_iff s).mp (h.loadOpen hl)) }

/-- Nothing is asked of a state in which `Load` is no longer legal. -/
theorem Inv.closeLoad {s : State} (h : Inv s) : Inv s.closeLoad := { h with loadOpen := nofun }

/-- Timers at zero stay at zero, so a tick keeps a fresh state fresh (R283). -/
theorem Inv.tick {s : State} (h : Inv s) : Inv s.tick :=
  { h with
    loadOpen := fun hl => by
      obtain ⟨hmem, hv, hi, hpc, hsp, hdt, hst, hrest⟩ := (State.fresh_iff s).mp (h.loadOpen hl)
      exact (State.fresh_iff _).mpr ⟨hmem, hv, hi, hpc, hsp, by simp [hdt, countDown], by simp [hst, countDown], hrest⟩ }

/-- The keys are inputs, of which a fresh state says nothing (R312). -/
theorem Inv.setKey {s : State} (h : Inv s) (k : Nibble) (p : Bool) : Inv (s.setKey k p) :=
  { h with loadOpen := fun hl => (State.fresh_iff _).mpr ((State.fresh_iff s).mp (h.loadOpen hl)) }

theorem Inv.surfaceReset {s : State} (h : Inv s) : Inv s.surfaceReset :=
  { h with
    surface := rfl
    loadOpen := fun hl => (State.fresh_iff _).mpr ((State.fresh_iff s).mp (h.loadOpen hl)) }

/-- `Reset` leaves a fresh state, with the surface it found (R311). -/
theorem Inv.hostReset {s : State} (h : Inv s) : Inv s.hostReset := inv_of_fresh rfl h.surface

/-! ### Load (R312) -/

/-- `prog_end` behind a program that is not too long. -/
theorem loaded_progEnd_toNat {bytes : List Byte} (hlen : bytes.length ≤ 3584) (s : State) :
    (s.loaded bytes).progEnd.toNat = 0x200 + bytes.length := by
  rw [State.loaded_progEnd, BitVec.toNat_ofNat, progBase]
  omega

/-- `Load` writes inside memory, and where it is legal no engine is blocked and no fault recorded. -/
theorem Inv.loaded {s : State} (h : Inv s) (hopen : s.loadOpen = true) {bytes : List Byte} (hlen : bytes.length ≤ 3584) :
    Inv (s.loaded bytes) := by
  obtain ⟨-, -, -, -, -, -, -, hblocked, hfault, -, -⟩ := (State.fresh_iff s).mp (h.loadOpen hopen)
  have hend := loaded_progEnd_toNat hlen s
  exact { h with
    mem := Memory.wf_writeBlock h.mem (by unfold progBase memSize; omega)
    progEnd := by omega
    blocked := fun hb => absurd (hblocked.symm.trans hb) nofun
    fault := fun f hf => absurd (hfault.symm.trans hf) nofun
    loadOpen := nofun }

/-! ### The cycle -/

/-- A record that the state explains, once `Load` is no longer legal (R272). -/
theorem Inv.setFault {s : State} (h : Inv s) (hclosed : s.loadOpen = false) {f : FaultRecord} (hf : s.explains f) :
    Inv (s.setFault f) :=
  { h with
    fault := fun g hg => by cases hg; exact hf
    loadOpen := fun hl => absurd (hclosed.symm.trans hl) nofun }

/-- A blocked engine stands at an LD Vx,K, so it is not blocked where another instruction runs (R42). -/
theorem Inv.not_blocked {s : State} (h : Inv s) {i : Instr} (hd : decodeWord (s.mem.read16 s.pc.toNat) = some i)
    (hi : ∀ x, i ≠ .ldVxK x) : s.blocked = false := by
  by_contra hb
  obtain ⟨-, -, x, hx⟩ := h.blocked (by simpa using hb)
  simp only [fetchInstr, hd] at hx
  exact hi x (Fetched.instr.inj hx)

/-- What is left to show of an instruction that completes unblocked: its memory, its surface, its pc, its stack. -/
theorem Inv.of_completed {s t : State} (h : Inv s) (hmem : t.mem.wf = true) (hfb : t.fb.wf dispW dispH = true)
    (hpc : t.pc.toNat ≤ 0x10FE) (hstack : ∀ j, j < t.sp.val → (t.slot j).toNat ≤ 4096) (hend : t.progEnd = s.progEnd)
    (hblocked : t.blocked = false) (hfault : t.fault = none) (hclosed : t.loadOpen = false) : Inv t where
  mem := hmem
  surface := hfb
  progEnd := hend ▸ h.progEnd
  pc := hpc
  stack := hstack
  blocked hb := absurd (hblocked.symm.trans hb) nofun
  fault _ hf := absurd (hfault.symm.trans hf) nofun
  loadOpen hl := absurd (hclosed.symm.trans hl) nofun

/-- From the last fetch address the pc moves at most to 0x10FE (R36). -/
theorem NextPc.toNat_le {s : State} {pc : Word} (h : NextPc s pc) (hlt : s.pc.toNat < 4095) : pc.toNat ≤ 0x10FE := by
  rcases h with rfl | rfl | h
  · rw [BitVec.toNat_add_of_lt] <;> simp <;> omega
  · rw [BitVec.toNat_add_of_lt] <;> simp <;> omega
  · exact h

/-- The instruction at the pc, run by a cycle, keeps the invariant. -/
theorem Inv.effect {s t : State} {i : Instr} (h : Inv s) (hclosed : s.loadOpen = false) (hf : s.fault = none)
    (hpc : s.pc.toNat < 4095) (hend : s.pc.toNat < s.progEnd.toNat)
    (hd : decodeWord (s.mem.read16 s.pc.toNat) = some i) (he : Effect s i t) : Inv t := by
  have hnext {pc : Word} (hn : NextPc s pc) : pc.toNat ≤ 0x10FE := hn.toNat_le hpc
  have hnpc := hnext (Or.inl rfl)
  cases he with
  | fault hc => exact h.setFault hclosed ⟨rfl, (encode_of_decodeWord hd).1⟩
  | registers hi _ hn => exact h.of_completed h.mem h.surface (hnext hn) h.stack rfl (h.not_blocked hd hi) hf hclosed
  | index hi =>
    have hi' : ∀ x, i ≠ .ldVxK x := by rcases hi with ⟨nnn, rfl⟩ | ⟨x, rfl | rfl⟩ <;> exact nofun
    exact h.of_completed h.mem h.surface hnpc h.stack rfl (h.not_blocked hd hi') hf hclosed
  | memory hi hm =>
    have hi' : ∀ x, i ≠ .ldVxK x := by obtain ⟨x, rfl | rfl⟩ := hi <;> exact nofun
    exact h.of_completed (hm h.mem) h.surface hnpc h.stack rfl (h.not_blocked hd hi') hf hclosed
  | random _ | delayTimer | soundTimer =>
    exact h.of_completed h.mem h.surface hnpc h.stack rfl (h.not_blocked hd nofun) hf hclosed
  | clear => exact h.of_completed h.mem rfl hnpc h.stack rfl (h.not_blocked hd nofun) hf hclosed
  | draw hfb => exact h.of_completed h.mem (hfb h.surface) hnpc h.stack rfl (h.not_blocked hd nofun) hf hclosed
  | ret hsp =>
    have htop : s.top.toNat ≤ 4096 := h.stack _ (by omega)
    refine h.of_completed h.mem h.surface (le_trans htop (by decide)) (fun j hj => ?_) rfl (h.not_blocked hd nofun) hf hclosed
    rw [State.setPc_sp, State.pop_sp_val] at hj
    exact h.stack j (by omega)
  | @call nnn hsp =>
    have hlt : s.sp.val < 16 := by omega
    refine h.of_completed h.mem h.surface (hnext (Or.inr (Or.inr ?_))) (fun j hj => ?_) rfl (h.not_blocked hd nofun) hf hclosed
    · rw [State.setPc_pc, zextAddr_toNat]; omega
    · rw [State.setPc_sp, State.push_sp_val _ hlt] at hj
      rw [State.setPc_slot, State.slot_push _ _ hlt]
      split
      · rw [State.npc, BitVec.toNat_add_of_lt] <;> simp <;> omega
      · exact h.stack j (by omega)
  | @wait x =>
    have hbound : s.pc.toNat + 1 ≤ memSize - 1 := by unfold memSize; omega
    exact { h with
      blocked := fun _ => ⟨hbound, hend, x, by simp only [fetchInstr, hd]⟩
      loadOpen := fun hl => absurd (hclosed.symm.trans hl) nofun }
  | key _ => exact h.of_completed h.mem h.surface hnpc h.stack rfl rfl hf hclosed

/-- Every way a cycle can go keeps the invariant (R106). -/
theorem Inv.cycle {s t : State} (h : Inv s) (ht : cycle s = .next t) : Inv t := by
  have hclosed := h.closeLoad
  rcases cycle_cases s with ⟨-, heq⟩ | ⟨-, hpc, heq⟩ | ⟨-, -, -, heq⟩ | ⟨hf, hpc, hend, ⟨i, hd, heq⟩ | ⟨hd, heq⟩⟩
  · cases heq.symm.trans ht; exact hclosed
  · rw [raise_next (heq.symm.trans ht)]
    exact hclosed.setFault rfl ⟨rfl, rfl, by simp [memSize]; omega⟩
  · cases heq.symm.trans ht; exact hclosed
  · exact hclosed.effect rfl hf hpc hend hd (exec_effect (heq.symm.trans ht))
  · rw [raise_next (heq.symm.trans ht)]
    exact hclosed.setFault rfl ⟨rfl, rfl⟩

theorem Inv.step {s t : State} (h : Inv s) (ht : step s = .next t) : Inv t := by
  rcases step_cases s with heq | heq | heq | ⟨bytes, heq⟩ | ⟨k, p, heq⟩ | heq
  · exact h.dequeue.cycle (heq.symm.trans ht)
  · cases heq.symm.trans ht; exact h.dequeue.hostReset
  · cases heq.symm.trans ht; exact h.dequeue.tick
  · rcases hostLoad_cases bytes s.dequeue with ⟨hlen, hopen, hload⟩ | ⟨-, hload⟩ | ⟨-, -, hload⟩
    · cases hload.symm.trans (heq.symm.trans ht); exact h.dequeue.loaded hopen hlen
    · cases hload.symm.trans (heq.symm.trans ht)
    · cases hload.symm.trans (heq.symm.trans ht)
  · cases heq.symm.trans ht; exact h.dequeue.setKey k p
  · cases heq.symm.trans ht; exact h.dequeue.surfaceReset

end Machine

/-! ### The obligations -/

open Machine

/-- Settles O22: the state after reset is fresh, and its surface has no pixel on. -/
theorem resetMeetsTheInvariant : Obligations.ResetMeetsTheInvariant := inv_reset

/-- Settles O23, over what a step can do, and for a cycle over what an instruction can do. -/
theorem stepKeepsTheInvariant : Obligations.StepKeepsTheInvariant := fun _ _ h ht => h.step ht

end Sys2Proof
end

section
/-! Proofs of the cycle family: what each front of a cycle makes of the state, the status it returns, and what a step
performs. -/

namespace Sys2Proof

namespace Machine

/-! ### The front of the cycle (R106 steps 1, 5 to 9) -/

theorem fetch_of_faulted {s : State} {f : FaultRecord} (hf : s.fault = some f) : fetch s = .faulted f := by
  simp only [fetch, hf]

theorem fetch_of_inside {s : State} (hf : s.fault = none) (hpc : s.pc.toNat < 4095)
    (hend : s.pc.toNat < s.progEnd.toNat) : fetch s = fetchInstr s := by
  have hbound : ¬ memSize - 1 < s.pc.toNat + 1 := by unfold memSize; omega
  simp only [fetch, hf, if_neg hbound, if_neg (Nat.not_le.mpr hend)]

theorem fetchInstr_of_decodeWord {s : State} {i : Instr} (hd : decodeWord (s.mem.read16 s.pc.toNat) = some i) :
    fetchInstr s = .instr i := by
  simp only [fetchInstr, hd]

theorem fetchInstr_of_illegal {s : State} (hd : decodeWord (s.mem.read16 s.pc.toNat) = none) :
    fetchInstr s = .unsupported (s.mem.read16 s.pc.toNat) := by
  simp only [fetchInstr, hd]

/-- A front that found an instruction found it in the word at the pc. -/
theorem decodeWord_of_fetch {s : State} {i : Instr} (h : fetch s = .instr i) :
    decodeWord (s.mem.read16 s.pc.toNat) = some i := by
  rcases fetch_cases s with ⟨f, -, heq⟩ | ⟨-, -, heq⟩ | ⟨-, -, -, heq⟩ | ⟨-, -, -, heq⟩
  · cases heq.symm.trans h
  · cases heq.symm.trans h
  · cases heq.symm.trans h
  · rcases fetchInstr_cases s with ⟨j, hd, hj⟩ | ⟨-, hj⟩
    · cases hj.symm.trans (heq.symm.trans h); exact hd
    · cases hj.symm.trans (heq.symm.trans h)

/-- Two bytes that decode are a word that does (R71). -/
theorem decodeWord_of_decodeBytes {hi lo : Byte} {i : Instr} (h : decodeBytes [hi, lo] = .ok (i, [])) :
    decodeWord (wordOfBytes hi lo) = some i := by
  rw [decodeBytes] at h
  cases hd : decodeWord (wordOfBytes hi lo) with
  | some j => rw [hd] at h; cases h; rfl
  | none => rw [hd] at h; cases h

/-- A host that cycles goes on cycling. -/
theorem State.dequeue_of_cycling {s : State} (hops : s.hostOps = []) (hplan : s.hostPlan = .cycling) : s.dequeue = s := by
  cases s
  simp_all [State.dequeue, HostPlan.later]

/-! ### The cycle and its status -/

theorem cycle_of_fetch {s : State} {f : Fetched} (h : fetch s = f) : cycle s = runFetched f s.closeLoad := by
  rw [cycle, h]

/-- With a `Cycle` next a step is the cycle of the state with the operation taken off. -/
theorem step_of_cycle_next {s : State} {f : Fetched} (hop : nextOp s = .cycle) (h : fetch s = f) :
    step s = runFetched f s.dequeue.closeLoad := by
  have hfetch : fetch s.dequeue = f := h
  rw [step_of_nextOp hop, ← cycle_of_fetch hfetch]
  rfl

theorem cycleStatus_of_fault {s t : State} {f : FaultRecord} (h : t.fault = some f) : cycleStatus s t = .fault f.cause := by
  simp only [cycleStatus, h]

theorem cycleStatus_of_no_fault {s t : State} (h : t.fault = none) : cycleStatus s t = statusOfFetched (fetch s) s := by
  simp only [cycleStatus, h]

/-- A status of Blocked comes of LD Vx,K alone, with no key pressed (R224, R225). -/
theorem statusOfFetched_eq_blocked {f : Fetched} {s : State} (h : statusOfFetched f s = .blocked) :
    ∃ x, f = .instr (.ldVxK x) ∧ s.firstKey = none := by
  unfold statusOfFetched at h
  split at h
  · cases h
  · next x =>
    split at h
    · next hkey => exact ⟨x, rfl, hkey⟩
    · cases h
  · cases h

theorem cycleStatus_eq_blocked {s t : State} (h : cycleStatus s t = .blocked) :
    ∃ x, fetch s = .instr (.ldVxK x) ∧ s.firstKey = none := by
  unfold cycleStatus at h
  split at h
  · cases h
  · exact statusOfFetched_eq_blocked h

/-- LD Vx,K with no key pressed sets the Blocked flag and no more (R224). -/
theorem exec_ldVxK_of_no_key (x : Nibble) {s : State} (h : s.firstKey = none) :
    exec (.ldVxK x) s = .next { s with blocked := true } := by
  rcases execLdVxK_cases x s with ⟨-, heq⟩ | ⟨k, hk, -⟩
  · exact heq
  · cases h.symm.trans hk

end Machine

/-! ### The obligations -/

open Machine

/-- Settles O10: the front finds the instruction of the two bytes; and what is next is the head of the list, or of the
plan where the list is empty. -/
theorem stepRunsDecodedInstruction : Obligations.StepRunsDecodedInstruction := by
  refine ⟨fun s i hop hf hpc hend hbytes => ?_, fun s => ⟨rfl, fun op rest hops => ?_, fun hops hplan => ?_,
    fun k hops hplan => ?_⟩⟩
  · have hfetch := fetch_of_inside hf (Nat.lt_of_succ_le hpc) hend
    rw [fetchInstr_of_decodeWord (decodeWord_of_decodeBytes hbytes)] at hfetch
    exact step_of_cycle_next hop hfetch
  · exact ⟨nextOp_of_cons hops, by simp [State.dequeue, hops]⟩
  · exact ⟨by rw [nextOp_of_empty hops, hplan]; rfl, State.dequeue_of_cycling hops hplan⟩
  · exact ⟨by rw [nextOp_of_empty hops, hplan]; rfl, by simp [State.dequeue, hops, hplan, HostPlan.later]⟩

/-- Settles O11: step 3 of R106 takes the fault. -/
theorem fetchBeyondMemoryFaults : Obligations.FetchBeyondMemoryFaults := fun _ hop hf hpc =>
  ⟨_, step_of_cycle_next hop (fetch_of_beyond_memory hf hpc), rfl, rfl⟩

/-- Settles O12: step 4 of R106 leaves the state. -/
theorem sentinelEndsTheRun : Obligations.SentinelEndsTheRun := by
  intro s hop hf hpc hend
  have hfetch := fetch_of_sentinel hf (Nat.lt_succ_of_le hpc) hend
  have hstatus := cycleStatus_of_no_fault (s := s) (t := s.dequeue.closeLoad) hf
  rw [hfetch] at hstatus
  exact ⟨_, step_of_cycle_next hop hfetch, rfl, hstatus⟩

/-- Settles O13: step 8 of R106 takes the fault. -/
theorem illegalWordFaults : Obligations.IllegalWordFaults := by
  intro s hop hf hpc hend hd
  have hfetch := (fetch_of_inside hf (Nat.lt_succ_of_le hpc) hend).trans (fetchInstr_of_illegal hd)
  exact ⟨_, step_of_cycle_next hop hfetch, rfl, rfl⟩

/-- Settles O14: step 1 of R106 leaves the state, and the record with it. -/
theorem faultIsSticky : Obligations.FaultIsSticky := fun _ _ hop hf =>
  ⟨_, step_of_cycle_next hop (fetch_of_faulted hf), rfl, cycleStatus_of_fault hf⟩

/-- Settles O15: the status names the instruction and the keys, and with these the instruction only sets the flag. -/
theorem onlyKeyWaitBlocks : Obligations.OnlyKeyWaitBlocks := by
  intro s t hcycle hstatus
  obtain ⟨x, hfetch, hkey⟩ := cycleStatus_eq_blocked hstatus
  refine ⟨⟨x, decodeWord_of_fetch hfetch⟩, State.firstKey_eq_none.mp hkey, ?_⟩
  have hrun : cycle s = exec (.ldVxK x) s.closeLoad := cycle_of_fetch hfetch
  have hkey' : s.closeLoad.firstKey = none := hkey
  rw [exec_ldVxK_of_no_key x hkey'] at hrun
  cases hrun.symm.trans hcycle
  exact ⟨rfl, rfl⟩

/-- Settles O16. -/
theorem everyCycleHasANextState : Obligations.EveryCycleHasANextState := ⟨exists_exec_eq_next, exists_cycle_eq_next⟩

end Sys2Proof
end

section
/-! Proofs of the host's operations: Reset, Load, Tick and SetKey. -/

namespace Sys2Proof

namespace Machine

/-! ### What reset leaves (R48, R310) -/

/-- A memory that lists nothing reads as the reset contents. -/
theorem Memory.read_nil (a : Nat) : Memory.read [] a = if a < 80 then Config.font a else 0#8 := rfl

theorem State.getV_eq_zero {s : State} (h : s.v = Vector.replicate 16 0#8) (x : Nibble) : s.getV x = 0#8 := by
  simp [State.getV, h]

theorem State.keys_eq_released_iff {s : State} : s.keys = Vector.replicate 16 false ↔ ∀ k, s.keyDown k = false := by
  constructor
  · intro h k
    simp [State.keyDown, h]
  · intro h
    ext j hj
    have hk := h (BitVec.ofNat 4 j)
    simp only [State.keyDown, BitVec.toNat_ofNat, Nat.mod_eq_of_lt (show j < 2 ^ 4 from hj)] at hk
    rw [hk, Vector.getElem_replicate]

/-- A fresh machine with all keys released is one that Reset leaves as it is. -/
theorem State.hostReset_eq_self {s : State} (hs : s.fresh) (hkeys : ∀ k, s.keyDown k = false) : s.hostReset = s := by
  have hreleased := State.keys_eq_released_iff.mpr hkeys
  obtain ⟨hmem, hv, hi, hpc, hsp, hdt, hst, hblocked, hfault, hend, hopen⟩ := (State.fresh_iff s).mp hs
  cases s
  simp_all [State.hostReset, State.reset]

/-! ### Timers and keys (R220, R283) -/

theorem countDown_toNat (b : Byte) : (countDown b).toNat = b.toNat - 1 := by
  unfold countDown
  split
  · next h => rw [h]; rfl
  · bv_omega

theorem State.keyDown_setKey_same (s : State) (k : Nibble) (p : Bool) : (s.setKey k p).keyDown k = p := by
  simp [State.keyDown]

theorem State.keyDown_setKey_other {s : State} {k j : Nibble} {p : Bool} (h : j ≠ k) :
    (s.setKey k p).keyDown j = s.keyDown j := by
  have hne : k.toNat ≠ j.toNat := fun hkj => h (BitVec.eq_of_toNat_eq hkj.symm)
  simp [State.keyDown, hne]

/-! ### Load (R312 to R314) -/

/-- What a legal Load leaves of a fresh machine (R313). -/
theorem bootState_loaded {s : State} (hs : s.fresh) {bytes : List Byte} (hlen : bytes.length ≤ 3584) :
    BootState bytes (s.loaded bytes) := by
  obtain ⟨hmem, hv, hi, hpc, hsp, hdt, hst, hblocked, hfault, -, -⟩ := (State.fresh_iff s).mp hs
  have hread : (s.loaded bytes).mem = Memory.writeBlock [] 0x200 bytes := by rw [State.loaded_mem, hmem, progBase]
  refine ⟨hfault, hblocked, by simp [hsp], hpc, loaded_progEnd_toNat hlen s, fun j b hj => ?program, fun a ha => ?font,
    fun a ha hout => ?zero, fun x => State.getV_eq_zero hv x, hi, hdt, hst⟩
  case program => rw [hread]; exact Memory.read_writeBlock_inside rfl (by unfold memSize; omega) hj
  case font => rw [hread, Memory.read_writeBlock_outside (by omega), Memory.read_nil, if_pos ha]
  case zero => rw [hread, Memory.read_writeBlock_outside hout, Memory.read_nil, if_neg (by omega)]

theorem hostReset_fresh (s : State) : s.hostReset.fresh := rfl

/-- With a Load next a step loads or is refused. -/
theorem step_of_load_next {s : State} {bytes : List Byte} (hop : nextOp s = .load bytes) :
    step s = hostLoad bytes s.dequeue := step_of_nextOp hop

theorem hostLoad_of_open {s : State} {bytes : List Byte} (hlen : bytes.length ≤ 3584) (hopen : s.loadOpen = true) :
    hostLoad bytes s = .next (s.loaded bytes) := by
  rcases hostLoad_cases bytes s with ⟨-, -, heq⟩ | ⟨hlong, -⟩ | ⟨-, hclosed, -⟩
  · exact heq
  · omega
  · cases hopen.symm.trans hclosed

theorem hostLoad_of_long {s : State} {bytes : List Byte} (hlen : 3584 < bytes.length) :
    hostLoad bytes s = .refused .loadTooLong := by
  rcases hostLoad_cases bytes s with ⟨hshort, -⟩ | ⟨-, heq⟩ | ⟨hshort, -⟩
  · omega
  · exact heq
  · omega

theorem hostLoad_of_closed {s : State} {bytes : List Byte} (hlen : bytes.length ≤ 3584) (hclosed : s.loadOpen = false) :
    hostLoad bytes s = .refused .loadNotAllowed := by
  rcases hostLoad_cases bytes s with ⟨-, hopen, -⟩ | ⟨hlong, -⟩ | ⟨-, -, heq⟩
  · cases hopen.symm.trans hclosed
  · omega
  · exact heq

/-- With all keys released a legal Load launches: the fresh machine is what Reset would leave of it (R314). -/
theorem launched_of_fresh {s : State} (hs : s.fresh) (hkeys : ∀ k, s.keyDown k = false) {bytes : List Byte}
    (hlen : bytes.length ≤ 3584) : Launched bytes (s.loaded bytes) :=
  ⟨hlen, s, by rw [State.hostReset_eq_self hs hkeys]⟩

end Machine

/-! ### The obligations -/

open Machine

/-- Settles O24: each field as `State.reset` has it. -/
theorem resetLeaves : Obligations.ResetLeaves :=
  ⟨Memory.read_nil, State.getV_eq_zero rfl, rfl, rfl, rfl, rfl, rfl, rfl, State.keys_eq_released_iff.mp rfl, rfl, rfl, rfl,
    fun _ => rfl⟩

/-- Settles O60: a Reset leaves `State.reset` but for the fields it names. -/
theorem resetFromAnyState : Obligations.ResetFromAnyState := fun _ hop =>
  ⟨_, step_of_nextOp hop, rfl, rfl, rfl, rfl, rfl, rfl, rfl, rfl, rfl, rfl, rfl, rfl, State.getV_eq_zero rfl,
    State.keys_eq_released_iff.mp rfl, Memory.read_nil⟩

/-- Settles O57: each timer is counted down once. -/
theorem tickCountsDown : Obligations.TickCountsDown := fun s hop =>
  ⟨_, step_of_nextOp hop, countDown_toNat s.dt, countDown_toNat s.st, rfl⟩

/-- Settles O58: SetKey is a write of one key, and no effect of an instruction writes the keys. -/
theorem setKeyWritesOneKey : Obligations.SetKeyWritesOneKey := by
  constructor
  · exact fun s k p hop => ⟨_, step_of_nextOp hop, State.keyDown_setKey_same _ k p,
      fun j hj => State.keyDown_setKey_other hj, rfl⟩
  · intro i s t h
    obtain ⟨-, -, -, -, -, -, -, -, hkeys, -⟩ := eachPartHasItsOwnWriters i s t h
    exact hkeys

/-- Settles O59: while Load is legal the machine is fresh, by the invariant; after Reset it is fresh, from any state. -/
theorem loadLaunchesOrIsRefused : Obligations.LoadLaunchesOrIsRefused := by
  refine ⟨fun s bytes hinv hop => ?_, fun s bytes rest hops hlen => ?_, fun s bytes hlaunched => ?_⟩
  · rw [step_of_load_next hop]
    refine ⟨fun hlen hopen => ?_, fun hlong => hostLoad_of_long hlong, fun hlen hclosed => hostLoad_of_closed hlen hclosed⟩
    have hfresh : s.dequeue.fresh := hinv.dequeue.loadOpen hopen
    exact ⟨_, hostLoad_of_open hlen hopen, bootState_loaded hfresh hlen, fun hkeys => launched_of_fresh hfresh hkeys hlen,
      rfl, rfl⟩
  · have hload := step_of_load_next (s := ({ s with hostOps := .load bytes :: rest } : State).hostReset) rfl
    exact ⟨_, _, step_of_cons hops, hload.trans (hostLoad_of_open hlen rfl),
      ⟨hlen, { s with hostOps := rest }, rfl⟩, rfl, id⟩
  · obtain ⟨hlen, s0, rfl⟩ := hlaunched
    exact ⟨hlen, bootState_loaded (hostReset_fresh s0) hlen, State.keys_eq_released_iff.mp rfl⟩

end Sys2Proof
end

section
/-! Proofs of the flow family: CALL, RET and the jump by V0. -/

namespace Sys2Proof

namespace Machine

/-! ### CALL and RET (R133, R135) -/

theorem exec_ret_of_nonempty {s : State} (h : s.sp.val ≠ 0) : exec .ret s = .next (s.pop.setPc s.top) := by
  rcases execRet_cases s with ⟨hsp, -⟩ | ⟨-, heq⟩
  · exact absurd hsp h
  · exact heq

theorem exec_ret_of_empty {s : State} (h : s.sp.val = 0) :
    exec .ret s = raise .stackUnderflow (some (encode .ret)) s := by
  rcases execRet_cases s with ⟨-, heq⟩ | ⟨hsp, -⟩
  · exact heq
  · exact absurd h hsp

theorem exec_call_of_not_full (nnn : Addr12) {s : State} (h : s.sp.val < 16) :
    exec (.call nnn) s = .next ((s.push s.npc).setPc (zextAddr nnn)) := by
  rcases execCall_cases nnn s with ⟨hsp, -⟩ | ⟨-, heq⟩
  · omega
  · exact heq

theorem exec_call_of_full (nnn : Addr12) {s : State} (h : s.sp.val = 16) :
    exec (.call nnn) s = raise .stackOverflow (some (encode (.call nnn))) s := by
  rcases execCall_cases nnn s with ⟨-, heq⟩ | ⟨hsp, -⟩
  · exact heq
  · exact absurd h hsp

/-- A slot is a matter of the stack alone. -/
theorem State.slot_congr {s t : State} (h : s.stack = t.stack) (j : Nat) : s.slot j = t.slot j := by
  rw [State.slot, State.slot, h]

/-- The word of a CALL as a number (R104). -/
theorem encode_call (nnn : Addr12) : encode (.call nnn) = BitVec.ofNat 16 (0x2000 + nnn.toNat) := by
  apply BitVec.eq_of_toNat_eq
  rw [encode, wordNNN, BitVec.toNat_append, ← Nat.shiftLeft_add_eq_or_of_lt nnn.isLt, BitVec.toNat_ofNat, BitVec.toNat_ofNat,
    Nat.shiftLeft_eq]
  omega

/-- JP V0 jumps to the sum, and changes nothing else (R192). -/
theorem exec_jpV0 (nnn : Addr12) (s : State) :
    exec (.jpV0 nnn) s = .next (s.setPc (zextAddr nnn + zextByte (s.getV 0#4))) := rfl

end Machine

/-! ### The obligations -/

open Machine

/-- Settles O26: RET pops and jumps to what it popped. -/
theorem retPopsTheStack : Obligations.RetPopsTheStack := fun s hsp =>
  ⟨_, exec_ret_of_nonempty hsp, s.pop_sp_val, rfl⟩

/-- Settles O27: CALL pushes the next address and jumps, and a push writes the slot at the old depth alone. -/
theorem callPushesAndJumps : Obligations.CallPushesAndJumps := by
  intro nnn s hsp
  refine ⟨_, exec_call_of_not_full nnn hsp, zextAddr_toNat nnn, State.push_sp_val s.npc hsp, ?_, fun j hj => ?_, rfl⟩
  · rw [State.setPc_slot, State.slot_push _ _ hsp, if_pos rfl, State.npc]
  · rw [State.setPc_slot, State.slot_push _ _ hsp, if_neg hj]

/-- Settles O28: the two ends of the stack take the fault, with the word of the instruction. -/
theorem stackDisciplineFaults : Obligations.StackDisciplineFaults :=
  ⟨fun _ hsp => ⟨_, exec_ret_of_empty hsp, rfl⟩, fun nnn _ hsp => ⟨_, exec_call_of_full nnn hsp, by rw [encode_call]; rfl⟩⟩

/-- Settles O29: RET finds on the stack what CALL pushed, whatever else the state between them is. -/
theorem retRestoresTheCallersPc : Obligations.RetRestoresTheCallersPc := by
  intro nnn s t u w hsp hcall hstack hdepth hret
  cases (exec_call_of_not_full nnn hsp).symm.trans hcall
  have hval : u.sp.val = s.sp.val + 1 := (congrArg Fin.val hdepth).trans (State.push_sp_val s.npc hsp)
  have hslot (j : Nat) : u.slot j = if j = s.sp.val then s.npc else s.slot j :=
    (State.slot_congr hstack j).trans (State.slot_push _ j hsp)
  cases (exec_ret_of_nonempty (by omega)).symm.trans hret
  refine ⟨?pc, Fin.ext ?depth, fun j hj => ?below⟩
  case pc => rw [State.setPc_pc, State.top, hslot, if_pos (by omega), State.npc]
  case depth => rw [State.setPc_sp, State.pop_sp_val]; omega
  case below => rw [State.setPc_slot, State.pop_slot, hslot, if_neg (by omega)]

/-- Settles O31: the sum does not wrap, and from 4095 on it is out of bounds for the next fetch. -/
theorem jpV0AddsV0 : Obligations.JpV0AddsV0 := by
  intro nnn s
  have htarget := jpV0_target_toNat nnn (s.getV 0#4)
  obtain ⟨u, hu⟩ := exists_cycle_eq_next (s.setPc (zextAddr nnn + zextByte (s.getV 0#4)))
  exact ⟨_, u, exec_jpV0 nnn s, htarget, rfl, hu, fun hf hge => cycleStatus_of_beyond_memory hf (hge.trans_eq htarget.symm) hu⟩

end Sys2Proof
end

section
/-! Proofs of the skip family: the skips on two registers and on a key. -/

namespace Sys2Proof

namespace Machine

/-- SE Vx,Vy is a skip on equality (R153). -/
theorem exec_seReg (x y : Nibble) (s : State) :
    exec (.seReg x y) s = skipIf (decide (s.getV x = s.getV y)) s := rfl

/-- SNE Vx,Vy is a skip on inequality (R154). -/
theorem exec_sneReg (x y : Nibble) (s : State) :
    exec (.sneReg x y) s = skipIf (decide (s.getV x ≠ s.getV y)) s := rfl

/-- SKP is a skip on the key pressed (R222). -/
theorem exec_skp (x : Nibble) (s : State) : exec (.skp x) s = skipIf (s.pressed (s.getV x)) s := rfl

/-- SKNP is a skip on the key not pressed (R223). -/
theorem exec_sknp (x : Nibble) (s : State) : exec (.sknp x) s = skipIf (!s.pressed (s.getV x)) s := rfl

theorem exists_skipIf_pcResult (c : Bool) (s : State) :
    ∃ t, skipIf c s = .next t ∧ PcResult (if c then s.pc + 4#16 else s.pc + 2#16) s t := ⟨_, skipIf_eq c s, rfl⟩

theorem exists_skipIf_not_pcResult (c : Bool) (s : State) :
    ∃ t, skipIf (!c) s = .next t ∧ PcResult (if c then s.pc + 2#16 else s.pc + 4#16) s t := by
  cases c
  · exact exists_skipIf_pcResult true s
  · exact exists_skipIf_pcResult false s

/-- A byte that is a key code is pressed where its key is (R221). -/
theorem State.pressed_of_code {s : State} {b : Byte} {k : Nibble} (h : b.toNat = k.toNat) : s.pressed b = s.keyDown k := by
  have hcode : b.setWidth 4 = k := BitVec.eq_of_toNat_eq (by rw [BitVec.toNat_setWidth, h]; omega)
  have hle : b.toNat ≤ 15 := by omega
  rw [State.pressed, hcode, decide_eq_true hle, Bool.true_and]

/-- A byte above 15 is never pressed (R221, D13). -/
theorem State.pressed_of_large {s : State} {b : Byte} (h : 15 < b.toNat) : s.pressed b = false := by
  rw [State.pressed, decide_eq_false (by omega), Bool.false_and]

end Machine

/-! ### The obligations -/

open Machine

/-- Settles O33: with x = y the two sides are one value. -/
theorem skipOnRegisters : Obligations.SkipOnRegisters := by
  refine ⟨fun x y s => ?_, fun x s => ?_⟩
  · exact ⟨exists_skipIf_decide_pcResult _ s, exists_skipIf_decide_pcResult _ s⟩
  · rw [exec_seReg, exec_sneReg, skipIf_eq, skipIf_eq]
    simp

/-- Settles O34: the condition is the key's level where V[x] is a code, and false where it is none. -/
theorem skipOnKey : Obligations.SkipOnKey := by
  intro x s
  rw [exec_skp, exec_sknp]
  refine ⟨fun k hk => ?_, fun hlarge => ?_⟩
  · rw [State.pressed_of_code hk]
    exact ⟨exists_skipIf_pcResult _ s, exists_skipIf_not_pcResult _ s⟩
  · rw [State.pressed_of_large hlarge]
    exact ⟨exists_skipIf_pcResult false s, exists_skipIf_pcResult true s⟩

end Sys2Proof
end

section
/-! Proofs of the kind 8 family: the differences and the shifts, with the bit that leaves as flag. -/

namespace Sys2Proof

namespace Machine

/-- No borrow is needed exactly where the subtrahend is not the greater (R176, R178). -/
theorem notBorrowFlag_eq (a b : Byte) : notBorrowFlag a b = if b.toNat ≤ a.toNat then 1#8 else 0#8 := by
  simp only [notBorrowFlag, flagByte, decide_eq_true_eq]

/-- The bit SHR shifts out is the remainder by 2 (R177). -/
theorem shrFlag_eq (a : Byte) : shrFlag a = BitVec.ofNat 8 (a.toNat % 2) := by
  apply BitVec.eq_of_toNat_eq
  simp only [shrFlag, BitVec.toNat_and, BitVec.toNat_ofNat, Nat.reducePow, Nat.reduceMod, Nat.and_one_is_mod]
  omega

/-- The bit SHL shifts out is the quotient by 128 (R179). -/
theorem shlFlag_eq (a : Byte) : shlFlag a = BitVec.ofNat 8 (a.toNat / 128) := by
  apply BitVec.eq_of_toNat_eq
  simp only [shlFlag, BitVec.toNat_and, BitVec.toNat_ofNat, BitVec.toNat_ushiftRight, Nat.shiftRight_eq_div_pow,
    Nat.reducePow, Nat.reduceMod, Nat.and_one_is_mod]
  omega

/-- The number of a byte difference, for any two bytes. -/
theorem byte_sub_toNat (a b : Byte) : (a - b).toNat = (a.toNat + 256 - b.toNat) % 256 := by
  rw [BitVec.toNat_sub]
  omega

/-- SUB writes not-borrow, then the difference (R176). -/
theorem exec_subReg (x y : Nibble) (s : State) : exec (.subReg x y) s =
    complete (s.setFlagThen (notBorrowFlag (s.getV x) (s.getV y)) x (s.getV x - s.getV y)) := rfl

/-- SUBN is SUB with the operands the other way round (R178). -/
theorem exec_subnReg (x y : Nibble) (s : State) : exec (.subnReg x y) s =
    complete (s.setFlagThen (notBorrowFlag (s.getV y) (s.getV x)) x (s.getV y - s.getV x)) := rfl

/-- SHR writes bit 0, then the half (R177). -/
theorem exec_shr (x y : Nibble) (s : State) :
    exec (.shr x y) s = complete (s.setFlagThen (shrFlag (s.getV x)) x (s.getV x >>> 1)) := rfl

/-- SHL writes bit 7, then the double (R179). -/
theorem exec_shl (x y : Nibble) (s : State) :
    exec (.shl x y) s = complete (s.setFlagThen (shlFlag (s.getV x)) x (s.getV x <<< 1)) := rfl

/-- An instruction that writes a flag and a result, as a claim gives them: the flag as a byte, the result as a number. -/
theorem exists_complete_setFlagThen_toNat {flag flag' result : Byte} {n : Nat} (hflag : flag = flag')
    (hresult : result.toNat = n) (x : Nibble) (s : State) :
    ∃ t, complete (s.setFlagThen flag x result) = .next t ∧ (t.getV x).toNat = n ∧ FlagResult x flag' (t.getV x) s t := by
  obtain ⟨t, hexec, hx, hframe⟩ := exists_complete_setFlagThen_flagResult flag result x s
  exact ⟨t, hexec, hx ▸ hresult, rfl, hflag ▸ hframe⟩

end Machine

/-! ### The obligations -/

open Machine

/-- Settles O39: both are one difference with its not-borrow, on the values before. -/
theorem subtractRegisters : Obligations.SubtractRegisters := by
  intro x y s
  rw [exec_subReg, exec_subnReg]
  exact ⟨exists_complete_setFlagThen_toNat (notBorrowFlag_eq _ _) (byte_sub_toNat _ _) x s,
    exists_complete_setFlagThen_toNat (notBorrowFlag_eq _ _) (byte_sub_toNat _ _) x s⟩

/-- Settles O40: a shift by one is a half, or a double modulo 256. -/
theorem shiftByOne : Obligations.ShiftByOne := by
  intro x y s
  have hhalf : (s.getV x >>> 1).toNat = (s.getV x).toNat / 2 := by
    rw [BitVec.toNat_ushiftRight, Nat.shiftRight_eq_div_pow, pow_one]
  have hdouble : (s.getV x <<< 1).toNat = (s.getV x).toNat * 2 % 256 := by
    rw [BitVec.toNat_shiftLeft, Nat.shiftLeft_eq, pow_one]
  rw [exec_shr, exec_shl]
  exact ⟨exists_complete_setFlagThen_toNat (shrFlag_eq _) hhalf x s,
    exists_complete_setFlagThen_toNat (shlFlag_eq _) hdouble x s⟩

end Sys2Proof
end

section
/-! Proofs of the random, timer, index and key wait families. -/

namespace Sys2Proof

namespace Machine

/-- RND writes the next free byte, masked, and takes that byte (R193). -/
theorem exec_rnd (x : Nibble) (nn : Byte) (s : State) :
    exec (.rnd x nn) s = complete ((s.setV x (Config.freeRnd s.rndCount &&& nn)).takeRandom) := rfl

/-- LD ST,Vx writes the register to the sound timer (R243). -/
theorem exec_ldStVx (x : Nibble) (s : State) : exec (.ldStVx x) s = complete (s.setSt (s.getV x)) := rfl

/-- ADD I,Vx adds the register to I (R244). -/
theorem exec_addIVx (x : Nibble) (s : State) : exec (.addIVx x) s = complete (s.setI (s.i + zextByte (s.getV x))) := rfl

/-- LD F,Vx points I at a glyph of five bytes (R245). -/
theorem exec_ldFVx (x : Nibble) (s : State) : exec (.ldFVx x) s = complete (s.setI (zextByte (s.getV x) * 5#16)) := rfl

theorem State.sound_iff (s : State) : s.sound = true ↔ s.st ≠ 0#8 := decide_eq_true_iff

theorem getElem_keyCodes {j : Nat} (h : j < keyCodes.length) : keyCodes[j] = BitVec.ofNat 4 j := by
  simp [keyCodes]

/-- The scan upward from 0 finds the lowest pressed key (R226). -/
theorem State.firstKey_eq_some {s : State} {k : Nibble} (hk : s.keyDown k = true) (hlow : ∀ j, j < k → s.keyDown j = false) :
    s.firstKey = some k := by
  have hlen : keyCodes.length = 16 := rfl
  refine List.find?_eq_some_iff_getElem.mpr ⟨hk, k.toNat, by omega, by rw [getElem_keyCodes, BitVec.ofNat_toNat]; simp,
    fun j hj => ?_⟩
  rw [getElem_keyCodes, hlow _ (BitVec.lt_def.mpr (by rw [BitVec.toNat_ofNat]; omega))]
  rfl

/-- With a key pressed LD Vx,K takes it, unblocks and completes (R224). -/
theorem exec_ldVxK_of_key (x : Nibble) {s : State} {k : Nibble} (h : s.firstKey = some k) :
    exec (.ldVxK x) s = complete ((s.setV x (k.setWidth 8)).setBlocked false) := by
  rcases execLdVxK_cases x s with ⟨hnone, -⟩ | ⟨j, hj, heq⟩
  · cases hnone.symm.trans h
  · cases hj.symm.trans h; exact heq

end Machine

/-! ### The obligations -/

open Machine

/-- Settles O42: what a mask leaves has no bit outside it, and is not greater. -/
theorem randomIsMasked : Obligations.RandomIsMasked := by
  intro x nn s
  refine ⟨_, exec_rnd x nn s, State.getV_setV_same s x _, ?inside, ?le, fun z hz => State.getV_setV_other (s := s) hz, rfl⟩
  case inside =>
    rw [State.setPc_getV, State.takeRandom_getV, State.getV_setV_same, BitVec.and_assoc, BitVec.and_not_self]
    exact BitVec.and_zero
  case le =>
    rw [State.setPc_getV, State.takeRandom_getV, State.getV_setV_same, BitVec.toNat_and]
    exact Nat.and_le_right

/-- Settles O50: SOUND reads the timer just written. -/
theorem writeSoundTimer : Obligations.WriteSoundTimer := fun x s => ⟨_, exec_ldStVx x s, rfl, State.sound_iff _⟩

/-- Settles O51: the sum is modulo 65536, and five times a byte does not wrap. -/
theorem indexArithmetic : Obligations.IndexArithmetic := by
  refine fun x s => ⟨⟨_, exec_addIVx x s, ?sum, rfl⟩, ⟨_, exec_ldFVx x s, ?product, rfl⟩⟩
  case sum => rw [State.setPc_i, State.setI_i, BitVec.toNat_add, zextByte_toNat]
  case product =>
    rw [State.setPc_i, State.setI_i, BitVec.toNat_mul, zextByte_toNat, BitVec.toNat_ofNat]
    omega

/-- Settles O46: with no key pressed the flag is set and the status read off the same instruction and keys. -/
theorem keyWaitBlocks : Obligations.KeyWaitBlocks := by
  intro x s hkeys
  have hkey := State.firstKey_eq_none.mpr hkeys
  refine ⟨_, exec_ldVxK_of_no_key x hkey, rfl, fun hf hfetch => ?_⟩
  rw [cycleStatus_of_no_fault hf, hfetch, statusOfFetched, if_pos hkey]

/-- Settles O47: the scan finds k, and its code fits a byte. -/
theorem keyWaitTakesTheLowestKey : Obligations.KeyWaitTakesTheLowestKey := by
  intro x k s hk hlow
  refine ⟨_, exec_ldVxK_of_key x (State.firstKey_eq_some hk hlow), ?code, fun z hz => ?kept, rfl⟩
  case code =>
    rw [State.setPc_getV, State.setBlocked_getV, State.getV_setV_same]
    exact BitVec.toNat_setWidth_of_le (by decide)
  case kept => rw [State.setPc_getV, State.setBlocked_getV, State.getV_setV_other hz]

end Sys2Proof
end

section
/-! Proofs of the memory instructions: Fx33, Fx55, Fx65 inside memory and, with the draw, beyond it. -/

namespace Sys2Proof

namespace Machine

/-- LD B,Vx stores the digits behind its bounds check (R246). -/
theorem exec_ldBVx (x : Nibble) (s : State) : exec (.ldBVx x) s = checkRange s.i.toNat 3 (.ldBVx x) s
    (complete (s.setMem (s.mem.writeBlock s.i.toNat (bcdDigits (s.getV x))))) := rfl

/-- LD [I],Vx stores the block behind its bounds check (R247). -/
theorem exec_ldMemVx (x : Nibble) (s : State) : exec (.ldMemVx x) s = checkRange s.i.toNat (x.toNat + 1) (.ldMemVx x) s
    (complete (s.setMem (s.mem.writeBlock s.i.toNat (s.regBlock x)))) := rfl

/-- LD Vx,[I] loads the block behind its bounds check (R248). -/
theorem exec_ldVxMem (x : Nibble) (s : State) : exec (.ldVxMem x) s = checkRange s.i.toNat (x.toNat + 1) (.ldVxMem x) s
    (complete (s.setRegs 0 (s.mem.readBlock s.i.toNat (x.toNat + 1)))) := rfl

/-- DRW draws behind its bounds check (R201). -/
theorem exec_drw (x y n : Nibble) (s : State) : exec (.drw x y n) s = checkRange s.i.toNat n.toNat (.drw x y n) s
    (complete ((s.setFb (s.drawn x y n).1).setV vf (flagByte (s.drawn x y n).2))) := rfl

/-- An access beyond memory takes the fault with its own word, and does nothing else (R73). -/
theorem exists_checkRange_faultResult {start count : Nat} (i : Instr) (s : State) (ok : Result) (h1 : 1 ≤ count)
    (h : 4096 < start + count) :
    ∃ t, checkRange start count i s ok = .next t ∧ FaultResult .outOfBounds (some (encode i)) s t :=
  ⟨_, checkRange_fault h1 h, rfl⟩

/-- An instruction that stores a block inside memory and completes. -/
theorem storeResult_setMem {s : State} {a : Nat} {bytes : List Byte} (hwf : s.mem.wf = true)
    (hin : a + bytes.length ≤ 4096) :
    StoreResult a bytes s ((s.setMem (s.mem.writeBlock a bytes)).setPc (s.pc + 2#16)) :=
  ⟨fun _ _ hb => Memory.read_writeBlock_inside hwf hin hb, fun _ hc => Memory.read_writeBlock_outside hc, rfl, rfl⟩

/-- The k-th byte of the block V0..Vx is V[k] (R247). -/
theorem State.getElem?_regBlock (s : State) {x k : Nibble} (h : k.toNat ≤ x.toNat) :
    (s.regBlock x)[k.toNat]? = some (s.getV k) := by
  have hlt : k.toNat < blockLen x := Nat.lt_succ_of_le h
  simp [State.regBlock, List.getElem?_range hlt]

/-- The digits of a byte as numbers (R246). -/
theorem bcdDigits_toNat (b : Byte) : ∃ h d o : Byte, bcdDigits b = [h, d, o] ∧ h.toNat = b.toNat / 100 ∧
    d.toNat = b.toNat / 10 % 10 ∧ o.toNat = b.toNat % 10 := by
  refine ⟨_, _, _, rfl, ?_, ?_, ?_⟩ <;> rw [BitVec.toNat_ofNat] <;> omega

end Machine

/-! ### The obligations -/

open Machine

/-- Settles O52: the digits are stored as one block of three. -/
theorem bcdStore : Obligations.BcdStore := by
  intro x s hwf hin
  obtain ⟨h, d, o, hdigits, hh, hd, ho⟩ := bcdDigits_toNat (s.getV x)
  have hexec := exec_ldBVx x s
  rw [checkRange_ok (Or.inr hin), hdigits] at hexec
  exact ⟨_, h, d, o, hexec, storeResult_setMem hwf hin, hh, hd, ho, by omega⟩

/-- Settles O53: the registers are stored as one block, whose k-th byte is V[k]. -/
theorem registerStore : Obligations.RegisterStore := by
  intro x s hwf hin
  have hlen := length_regBlock s x
  have hexec := exec_ldMemVx x s
  rw [checkRange_ok (Or.inr (by omega))] at hexec
  obtain ⟨hinside, houtside, -, hframe⟩ := storeResult_setMem (bytes := s.regBlock x) hwf (by omega : s.i.toNat + _ ≤ 4096)
  exact ⟨_, hexec, fun k hk => hinside _ _ (s.getElem?_regBlock hk), fun c hc => houtside c (by omega), hframe⟩

/-- Settles O54: the registers are loaded from one block, which ends at V[x]. -/
theorem registerLoad : Obligations.RegisterLoad := by
  intro x s hin
  have hexec := exec_ldVxMem x s
  rw [checkRange_ok (Or.inr (by omega))] at hexec
  have hget (k : Nibble) : (s.setRegs 0 (s.mem.readBlock s.i.toNat (x.toNat + 1))).getV k =
      ((s.mem.readBlock s.i.toNat (x.toNat + 1))[k.toNat]?).getD (s.getV k) := by
    rw [State.getV_setRegs _ _ _ _ (by rw [Memory.length_readBlock]; omega), if_pos (Nat.zero_le _), Nat.sub_zero]
  refine ⟨_, hexec, fun k hk => ?block, fun k hk => ?above, ?frame⟩
  case block => rw [State.setPc_getV, hget, Memory.getElem?_readBlock _ (by omega), Option.getD_some]
  case above =>
    rw [State.setPc_getV, hget, List.getElem?_eq_none (by rw [Memory.length_readBlock]; omega), Option.getD_none]
  case frame => rw [State.setRegs_frame]; rfl

/-- Settles O55: the load reads the addresses the store wrote, for I is as it was. -/
theorem storeThenLoadGivesBackTheBlock : Obligations.StoreThenLoadGivesBackTheBlock := by
  intro x s t u w hwf hin hstore hmem hi hload k hk
  obtain ⟨t', hstore', hstored, -, hframe⟩ := registerStore x s hwf hin
  cases hstore'.symm.trans hstore
  have hui : u.i = s.i := by rw [hi, hframe]
  obtain ⟨w', hload', hloaded, -, -⟩ := registerLoad x u (by rw [hui]; exact hin)
  cases hload'.symm.trans hload
  rw [hloaded k hk, hmem, hui, hstored k hk]

/-- Settles O56: each of the four stands behind the same bounds check. -/
theorem dataBeyondMemoryFaults : Obligations.DataBeyondMemoryFaults := by
  refine fun s => ⟨fun x y n hn h => ?_, fun x h => ?_, fun x h => ⟨?_, ?_⟩⟩
  · have hpos : n.toNat ≠ 0 := fun h0 => hn (BitVec.eq_of_toNat_eq h0)
    rw [exec_drw]; exact exists_checkRange_faultResult _ s _ (by omega) (by omega)
  · rw [exec_ldBVx]; exact exists_checkRange_faultResult _ s _ (by omega) (by omega)
  · rw [exec_ldMemVx]; exact exists_checkRange_faultResult _ s _ (by omega) (by omega)
  · rw [exec_ldVxMem]; exact exists_checkRange_faultResult _ s _ (by omega) (by omega)

end Sys2Proof
end

section
/-! Proofs of the draw family: a sprite's pixels, what toggling a list of pixels does, and the draw instruction. -/

namespace Sys2Proof

namespace Machine

/-! ### The pixels of a sprite (R203, R205) -/

theorem mem_rowPixels {w h x y : Nat} {row : Byte} {p : Pixel} :
    p ∈ rowPixels w h x y row ↔ ∃ c, c < 8 ∧ row.getLsbD (7 - c) = true ∧ p = (y % h, (x + c) % w) := by
  simp only [rowPixels, List.mem_map, List.mem_filter, List.mem_range, spriteBit, and_assoc, eq_comm]

theorem mem_spritePixels {w h x y : Nat} {rows : List Byte} {p : Pixel} : p ∈ spritePixels w h x y rows ↔
    ∃ k c b, rows[k]? = some b ∧ c < 8 ∧ b.getLsbD (7 - c) = true ∧ p = ((y + k) % h, (x + c) % w) := by
  induction rows generalizing y with
  | nil => simp [spritePixels]
  | cons row rows ih =>
    rw [spritePixels, List.mem_append, mem_rowPixels, ih]
    constructor
    · rintro (⟨c, hc⟩ | ⟨k, c, b, hb, hc⟩)
      · exact ⟨0, c, row, rfl, hc⟩
      · refine ⟨k + 1, c, b, hb, ?_⟩
        rwa [Nat.add_assoc, Nat.add_comm 1 k] at hc
    · rintro ⟨k, c, b, hb, hc⟩
      cases k with
      | zero => cases hb; exact Or.inl ⟨c, hc⟩
      | succ k =>
        refine Or.inr ⟨k, c, b, hb, ?_⟩
        rwa [Nat.add_assoc, Nat.add_comm 1 k]

/-- The pixels `draw_sprite` toggles are the covered ones. -/
theorem spriteCovers_iff {w h : Nat} {x y : Byte} {rows : List Byte} {p : Pixel} :
    SpriteCovers w h x y rows p ↔ p ∈ spritePixels w h x.toNat y.toNat rows := mem_spritePixels.symm

/-- Offsets below the size of an axis do not meet when they wrap. -/
theorem eq_of_add_mod_eq {a m c d : Nat} (hc : c < m) (hd : d < m) (h : (a + c) % m = (a + d) % m) : c = d := by
  have hmod : c % m = d % m := Nat.ModEq.add_left_cancel' a h
  rwa [Nat.mod_eq_of_lt hc, Nat.mod_eq_of_lt hd] at hmod

/-- On a surface at least 8 wide a row's bits name different pixels. -/
theorem nodup_rowPixels {w : Nat} (h x y : Nat) (row : Byte) (hw : 8 ≤ w) : (rowPixels w h x y row).Nodup := by
  refine List.Nodup.map_on (fun c hc d hd heq => ?_) (List.nodup_range.filter _)
  have hc8 := List.mem_range.mp (List.mem_of_mem_filter hc)
  have hd8 := List.mem_range.mp (List.mem_of_mem_filter hd)
  exact eq_of_add_mod_eq (hc8.trans_le hw) (hd8.trans_le hw) (congrArg Prod.snd heq)

/-- On a surface at least 8 wide and as high as the sprite no pixel is named twice. -/
theorem nodup_spritePixels {w h : Nat} (x y : Nat) {rows : List Byte} (hw : 8 ≤ w) (hh : rows.length ≤ h) :
    (spritePixels w h x y rows).Nodup := by
  induction rows generalizing y with
  | nil => exact List.nodup_nil
  | cons row rows ih =>
    rw [List.length_cons] at hh
    rw [spritePixels, List.nodup_append]
    refine ⟨nodup_rowPixels h x y row hw, ih (y + 1) (by omega), fun p hp q hq hpq => ?_⟩
    subst hpq
    obtain ⟨c, -, -, rfl⟩ := mem_rowPixels.mp hp
    obtain ⟨k, d, b, hb, -, -, heq⟩ := mem_spritePixels.mp hq
    obtain ⟨hk, -⟩ := List.getElem?_eq_some_iff.mp hb
    have hrow : (y + 0) % h = (y + (1 + k)) % h := by rw [Nat.add_zero, ← Nat.add_assoc]; exact congrArg Prod.fst heq
    have := eq_of_add_mod_eq (by omega) (by omega) hrow
    omega

/-! ### Toggling a list of pixels (R203) -/

theorem Surface.togglePixels_cons (p : Pixel) (ps : List Pixel) (fb : Surface) : Surface.togglePixels (p :: ps) fb =
    ((Surface.togglePixels ps (fb.toggle p)).1, fb.isLit p || (Surface.togglePixels ps (fb.toggle p)).2) := rfl

/-- A pixel changes as often as the list names it. -/
theorem Surface.isLit_togglePixels {fb : Surface} (h : fb.sorted = true) (ps : List Pixel) (r : Pixel) :
    (Surface.togglePixels ps fb).1.isLit r = (fb.isLit r ^^ decide (ps.count r % 2 = 1)) := by
  induction ps generalizing fb with
  | nil => simp [Surface.togglePixels]
  | cons p ps ih =>
    rw [Surface.togglePixels_cons, ih (Surface.sorted_toggle h p), Surface.isLit_toggle h, List.count_cons]
    by_cases hr : r = p
    · subst hr
      have hparity : decide ((ps.count r + 1) % 2 = 1) = !decide (ps.count r % 2 = 1) := by
        rw [← decide_not]; congr 1; exact propext (by omega)
      simp [hparity]
    · simp [hr, Ne.symm hr]

/-- Where no pixel is named twice, exactly the named ones turn over. -/
theorem Surface.isLit_togglePixels_of_nodup {fb : Surface} (h : fb.sorted = true) {ps : List Pixel} (hps : ps.Nodup)
    (r : Pixel) : (Surface.togglePixels ps fb).1.isLit r = (fb.isLit r ^^ decide (r ∈ ps)) := by
  rw [Surface.isLit_togglePixels h]
  by_cases hr : r ∈ ps
  · simp [List.count_eq_one_of_mem hps hr, hr]
  · simp [List.count_eq_zero_of_not_mem hr, hr]

/-- Where no pixel is named twice, a collision is a named pixel that was on before. -/
theorem Surface.collided_iff_of_nodup {fb : Surface} (h : fb.sorted = true) {ps : List Pixel} (hps : ps.Nodup) :
    (Surface.togglePixels ps fb).2 = true ↔ ∃ p, p ∈ ps ∧ fb.isLit p = true := by
  induction ps generalizing fb with
  | nil => simp [Surface.togglePixels]
  | cons p ps ih =>
    obtain ⟨hp, hrest⟩ := List.nodup_cons.mp hps
    have hother (q : Pixel) (hq : q ∈ ps) : (fb.toggle p).isLit q = fb.isLit q := by
      rw [Surface.isLit_toggle h, if_neg fun (hqp : q = p) => hp (hqp ▸ hq)]
    rw [Surface.togglePixels_cons, Bool.or_eq_true, ih (Surface.sorted_toggle h p) hrest, List.exists_mem_cons_iff]
    exact or_congr_right (exists_congr fun q => and_congr_right fun hq => by rw [hother q hq])

/-- A surface in rising order is the list of its pixels. -/
theorem Surface.eq_of_isLit_eq {fb fb' : Surface} (h : fb.sorted = true) (h' : fb'.sorted = true)
    (heq : ∀ p, fb.isLit p = fb'.isLit p) : fb = fb' := by
  rw [Surface.sorted_iff] at h h'
  have hne {p q : Pixel} (hpq : pixelBefore p q = true) : p ≠ q := fun e => pixelBefore_irrefl p (e ▸ hpq)
  have hmem (p : Pixel) : p ∈ fb ↔ p ∈ fb' := decide_eq_decide.mp (heq p)
  have hperm := (List.perm_ext_iff_of_nodup (h.imp hne) (h'.imp hne)).mpr hmem
  refine hperm.eq_of_pairwise (fun p q _ _ hpq hqp => ?_) h h'
  exact absurd (pixelBefore_trans hpq hqp) (pixelBefore_irrefl p)

/-- Toggling the same pixels twice restores the surface, for each is then named an even number of times. -/
theorem Surface.togglePixels_twice {fb : Surface} (h : fb.sorted = true) (ps : List Pixel) :
    (Surface.togglePixels ps (Surface.togglePixels ps fb).1).1 = fb := by
  have hsorted := Surface.sorted_togglePixels h ps
  refine Surface.eq_of_isLit_eq (Surface.sorted_togglePixels hsorted ps) h fun p => ?_
  rw [Surface.isLit_togglePixels hsorted, Surface.isLit_togglePixels h, Bool.xor_assoc, Bool.xor_self, Bool.xor_false]

/-! ### The draw instruction (R201) -/

/-- DRW inside memory, or of no rows, draws and completes. -/
theorem exec_drw_of_inside (x y : Nibble) {n : Nibble} {s : State} (h : n = 0#4 ∨ s.i.toNat + n.toNat ≤ 4096) :
    exec (.drw x y n) s = complete ((s.setFb (s.drawn x y n).1).setV vf (flagByte (s.drawn x y n).2)) := by
  rw [exec_drw, checkRange_ok]
  exact h.imp_left (congrArg BitVec.toNat)

end Machine

/-! ### The obligations -/

open Machine

/-- Settles O43: the rows are the n bytes at I, drawn on the surface, and VF is written after the draw. -/
theorem drawWritesCollision : Obligations.DrawWritesCollision := by
  intro x y n s hin
  refine ⟨_, s.spriteRows n, exec_drw_of_inside x y hin, Memory.length_readBlock _ _ _,
    fun k hk => Memory.getElem?_readBlock _ hk, rfl, ?flag, fun z hz => ?kept, rfl⟩
  case flag => rw [State.setPc_getV, vf, State.getV_setV_same]; rfl
  case kept => rw [State.setPc_getV, vf, State.getV_setV_other hz, State.setFb_getV]

/-- Settles O44: on such a surface no pixel is named twice. -/
theorem drawSpriteXorsCoveredPixels : Obligations.DrawSpriteXorsCoveredPixels := by
  intro w h x y rows fb hw hh hsorted
  have hnodup := nodup_spritePixels x.toNat y.toNat hw hh
  simp only [spriteCovers_iff, Surface.drawSprite]
  refine ⟨fun p => ?_, Surface.collided_iff_of_nodup hsorted hnodup⟩
  rw [Surface.isLit_togglePixels_of_nodup hsorted hnodup]
  by_cases hp : p ∈ spritePixels w h x.toNat y.toNat rows <;> simp [hp]

/-- Settles O45: the pixels are named twice as often; and where none is named twice in one draw, a covered pixel is on
after it exactly if it was off before. -/
theorem drawingTwiceRestores : Obligations.DrawingTwiceRestores := by
  intro w h x y rows fb hsorted
  simp only [spriteCovers_iff, Surface.drawSprite]
  refine ⟨Surface.togglePixels_twice hsorted _, fun hw hh => ?_⟩
  have hnodup := nodup_spritePixels x.toNat y.toNat hw hh
  rw [Surface.collided_iff_of_nodup (Surface.sorted_togglePixels hsorted _) hnodup]
  refine exists_congr fun p => and_congr_right fun hp => ?_
  rw [Surface.isLit_togglePixels_of_nodup hsorted hnodup]
  simp [hp]

end Sys2Proof
end
